-- ==== Sys2Proof/Word.lean ====
section
/-! DEFINITION. Bytes, words and the plainest helpers on them (00_scope.md R22). -/

namespace Sys2Proof

/-- An 8-bit unsigned value (R22). -/
abbrev Byte := BitVec 8

/-- A 32-bit host register value (R30, R68). -/
abbrev Word := BitVec 32

/-- The 32-bit word of a one-bit value, `zext_32` of R22. -/
def Word.ofBit (b : Bool) : Word := if b then 1#32 else 0#32

end Sys2Proof
end

