-- ==== Sys2Proof/Syntax.lean ====
section
/-! DEFINITION. The words of the spec: colours, LUT families and kinds, panel commands, payload sources, the one
instruction type (a constructor per row of spec/opcode_table.json), and the host's program lines. -/

namespace Sys2Proof

/-- The two-valued pixel and background colour (10_state.md R36). -/
inductive Color where
  | black
  | white
deriving DecidableEq, Repr, Inhabited

/-- The Refresh Mode and, with the same two names, the LUT family (10_state.md R35, 43_lut.md R160). -/
inductive Family where
  | full
  | quick
deriving DecidableEq, Repr, Inhabited

/-- The five LUT kinds (00_scope.md R26, 43_lut.md R160). -/
inductive LutKind where
  | vcom
  | ww
  | bw
  | wb
  | bb
deriving DecidableEq, Repr, Inhabited

/-- The LUTSEL field of a CTRL word (30_encoding.md R83); `reserved` is the value 3. -/
inductive LutSel where
  | noOverride
  | full
  | quick
  | reserved
deriving DecidableEq, Repr, Inhabited

/-- The panel commands of 46_panel_commands.md R215 to R235. -/
inductive PanelCommand where
  | powerSetting
  | boosterSoftStart
  | powerOn
  | panelSetting
  | pllControl
  | resolutionSetting
  | vcmDcSetting
  | vcomAndDataIntervalSetting
  | lutVcom
  | lutWW
  | lutBW
  | lutWB
  | lutBB
  | dataStartTransmission1
  | dataStartTransmission2
  | displayRefresh
  | partialIn
  | partialWindow
  | getStatus
  | deepSleep
  | forceTemperature
deriving DecidableEq, Repr, Inhabited

/-- The 21 commands; the two whose bytes the source fixes (R215, R235) come first. -/
def PanelCommand.all : List PanelCommand :=
  [.powerSetting, .forceTemperature, .boosterSoftStart, .powerOn, .panelSetting, .pllControl, .resolutionSetting,
   .vcmDcSetting, .vcomAndDataIntervalSetting, .lutVcom, .lutWW] ++
  [.lutBW, .lutWB, .lutBB, .dataStartTransmission1, .dataStartTransmission2, .displayRefresh, .partialIn,
   .partialWindow, .getStatus, .deepSleep]

/-- A payload source (40_framer.md R116, 30_encoding.md R92): a lazy stream of bytes. -/
inductive Payload where
  /-- (a) constant bytes, and (f) a descriptor computed before the cycle begins. -/
  | bytes (bs : List Byte)
  /-- (b) `repeat(b, n)`. -/
  | fill (b : Byte) (n : Nat)
  /-- (c) the host buffer verbatim. -/
  | buf (base len : Nat)
  /-- (d) the host buffer complemented bytewise. -/
  | bufCompl (base len : Nat)
  /-- (e) a LUT table. -/
  | lut (f : Family) (k : LutKind)
deriving DecidableEq, Repr, Inhabited

/-- One constructor per row of spec/opcode_table.json. The first sixteen are CTRL words (30_encoding.md R82), the
other twenty-one panel commands, each with the payload its command cycle carries (40_framer.md R111). -/
inductive Instr where
  /-- OP 0x0, reserved (R88). -/
  | reserved0
  /-- OP 0x1 (42_init.md R146). -/
  | init
  /-- OP 0x2 (44_refresh.md R199). -/
  | sleep
  /-- OP 0x3 (44_refresh.md R177). -/
  | updateFrame
  /-- OP 0x4 (44_refresh.md R182). -/
  | updatePartialFrame
  /-- OP 0x5 (44_refresh.md R189). -/
  | displayFrame
  /-- OP 0x6 (44_refresh.md R192). -/
  | updateAndDisplayFrame
  /-- OP 0x7 (42_init.md R156). -/
  | wakeUp
  /-- OP 0x8 (44_refresh.md R194). -/
  | clearFrame
  /-- OP 0x9 with COLOR (45_accessors.md R205). -/
  | setBackground (c : Color)
  /-- OP 0xA (45_accessors.md R206). -/
  | getBackground
  /-- OP 0xB (45_accessors.md R207). -/
  | getWidth
  /-- OP 0xC (45_accessors.md R208). -/
  | getHeight
  /-- OP 0xD with LUTSEL (43_lut.md R167). -/
  | setLut (sel : LutSel)
  /-- OP 0xE (45_accessors.md R209). -/
  | waitUntilIdle
  /-- OP 0xF, reserved (R88). -/
  | reservedF
  /-- R215. -/
  | powerSetting (p : Payload)
  /-- R216. -/
  | boosterSoftStart (p : Payload)
  /-- R217. -/
  | powerOn (p : Payload)
  /-- R218. -/
  | panelSetting (p : Payload)
  /-- R219. -/
  | pllControl (p : Payload)
  /-- R220. -/
  | resolutionSetting (p : Payload)
  /-- R221. -/
  | vcmDcSetting (p : Payload)
  /-- R222. -/
  | vcomAndDataIntervalSetting (p : Payload)
  /-- R223. -/
  | lutVcom (p : Payload)
  /-- R224. -/
  | lutWW (p : Payload)
  /-- R225. -/
  | lutBW (p : Payload)
  /-- R226. -/
  | lutWB (p : Payload)
  /-- R227. -/
  | lutBB (p : Payload)
  /-- R228. -/
  | dataStartTransmission1 (p : Payload)
  /-- R229. -/
  | dataStartTransmission2 (p : Payload)
  /-- R230. -/
  | displayRefresh (p : Payload)
  /-- R231. -/
  | partialIn (p : Payload)
  /-- R232. -/
  | partialWindow (p : Payload)
  /-- R233. -/
  | getStatus (p : Payload)
  /-- R234. -/
  | deepSleep (p : Payload)
  /-- R235. -/
  | forceTemperature (p : Payload)
deriving DecidableEq, Repr, Inhabited

/-- The panel command and payload of a panel-command instruction; none for a CTRL word. -/
def Instr.cycle? : Instr → Option (PanelCommand × Payload)
  | .reserved0 | .init | .sleep | .updateFrame | .updatePartialFrame | .displayFrame | .updateAndDisplayFrame
  | .wakeUp | .clearFrame | .setBackground _ | .getBackground | .getWidth | .getHeight | .setLut _
  | .waitUntilIdle | .reservedF => none
  | .powerSetting p => some (.powerSetting, p)
  | .boosterSoftStart p => some (.boosterSoftStart, p)
  | .powerOn p => some (.powerOn, p)
  | .panelSetting p => some (.panelSetting, p)
  | .pllControl p => some (.pllControl, p)
  | .resolutionSetting p => some (.resolutionSetting, p)
  | .vcmDcSetting p => some (.vcmDcSetting, p)
  | .vcomAndDataIntervalSetting p => some (.vcomAndDataIntervalSetting, p)
  | .lutVcom p => some (.lutVcom, p)
  | .lutWW p => some (.lutWW, p)
  | .lutBW p => some (.lutBW, p)
  | .lutWB p => some (.lutWB, p)
  | .lutBB p => some (.lutBB, p)
  | .dataStartTransmission1 p => some (.dataStartTransmission1, p)
  | .dataStartTransmission2 p => some (.dataStartTransmission2, p)
  | .displayRefresh p => some (.displayRefresh, p)
  | .partialIn p => some (.partialIn, p)
  | .partialWindow p => some (.partialWindow, p)
  | .getStatus p => some (.getStatus, p)
  | .deepSleep p => some (.deepSleep, p)
  | .forceTemperature p => some (.forceTemperature, p)

/-- The instruction `Cycle(c, P)` (40_framer.md R111). -/
def Instr.ofCycle : PanelCommand → Payload → Instr
  | .powerSetting, p => .powerSetting p
  | .boosterSoftStart, p => .boosterSoftStart p
  | .powerOn, p => .powerOn p
  | .panelSetting, p => .panelSetting p
  | .pllControl, p => .pllControl p
  | .resolutionSetting, p => .resolutionSetting p
  | .vcmDcSetting, p => .vcmDcSetting p
  | .vcomAndDataIntervalSetting, p => .vcomAndDataIntervalSetting p
  | .lutVcom, p => .lutVcom p
  | .lutWW, p => .lutWW p
  | .lutBW, p => .lutBW p
  | .lutWB, p => .lutWB p
  | .lutBB, p => .lutBB p
  | .dataStartTransmission1, p => .dataStartTransmission1 p
  | .dataStartTransmission2, p => .dataStartTransmission2 p
  | .displayRefresh, p => .displayRefresh p
  | .partialIn, p => .partialIn p
  | .partialWindow, p => .partialWindow p
  | .getStatus, p => .getStatus p
  | .deepSleep, p => .deepSleep p
  | .forceTemperature, p => .forceTemperature p

/-- The host registers of 20_memory.md R70. -/
inductive HostReg where
  | ctrl
  | status
  | result
  | errCode
  | bufBase
  | bufLen
  | x
  | y
  | w
  | h
deriving DecidableEq, Repr, Inhabited

/-- One host access to the register block: its width in bytes and its byte offset from the block's base
(20_memory.md R68, R70). -/
structure Access where
  width : Nat
  offset : Nat
deriving DecidableEq, Repr, Inhabited

/-- A line of a host program (30_encoding.md R96, and the poll loop of R97). -/
inductive HostLine where
  | wr (a : Access) (v : Word)
  | rd (a : Access)
  | poll
deriving DecidableEq, Repr, Inhabited

end Sys2Proof
end

