-- ==== Sys2Proof/Config.lean ====
section
/-! DEFINITION. The parameters of the block (00_scope.md section 4) and the free values: what the spec fixes or decides
is a definition, what it leaves OPEN is an opaque constant without a body. Also the environment's answers (R11), which
are the free inputs of a step. -/

namespace Sys2Proof

/-! ### Geometry, timing and levels: values the spec states or decides -/

/-- `WIDTH` (R13). -/
def Config.width : Nat := 104

/-- `HEIGHT` (R13). -/
def Config.height : Nat := 212

/-- `LEN = ceil(WIDTH/8) * HEIGHT` (R14). -/
def Config.len : Nat := (Config.width + 7) / 8 * Config.height

/-- `BUSY_IDLE_LEVEL` (R15). -/
def Config.busyIdleLevel : Bool := true

/-- `DC_CMD_LEVEL` (R21). -/
def Config.dcCmdLevel : Bool := false

/-- `DC_DATA_LEVEL` (R21). -/
def Config.dcDataLevel : Bool := true

/-- `T_RST_LOW` in microseconds (R20). DESIGN CHOICE of the spec, D10: log 7. -/
def Config.tRstLow : Nat := 10000

/-- `T_RST_HIGH` in microseconds (R20). Log 7. -/
def Config.tRstHigh : Nat := 10000

/-- `T_SETTLE` in microseconds (R20, R190). Log 7. -/
def Config.tSettle : Nat := 100000

/-- `T_POLL` in microseconds (R20, R131). Log 7. -/
def Config.tPoll : Nat := 1000

/-- `VCOM_DATA_INTERVAL` (R18). -/
def Config.vcomDataInterval : Byte := 0xB7#8

/-- `QUICK_VDC_OVERRIDE` (R18). -/
def Config.quickVdcOverride : Byte := 0x00#8

/-- `WINDOW_TRAILER` (R18). -/
def Config.windowTrailer : Byte := 0x28#8

/-- `BG_DEFAULT`, the colour after block reset (R16, R36, D17). Log 6. -/
def Config.bgDefault : Color := .white

/-! ### OPEN parameters: opaque, log 2 to log 5, log 10, log 11, log 33 -/

/-- `PWR_PAYLOAD`, 5 bytes (R18). -/
opaque Config.pwrPayload : Vector Byte 5

/-- `BOOST_PAYLOAD`, 3 bytes (R18). -/
opaque Config.boostPayload : Vector Byte 3

/-- `PSR_PAYLOAD`, 2 bytes (R18). -/
opaque Config.psrPayload : Vector Byte 2

/-- `PLL_PAYLOAD`, 1 byte (R18). -/
opaque Config.pllPayload : Vector Byte 1

/-- `VDC_PAYLOAD`, 1 byte (R18). -/
opaque Config.vdcPayload : Vector Byte 1

/-- `LUT[f][k]`: ten tables of any length and bytes (R19, R44). -/
opaque Config.lut : Family → LutKind → List Byte

/-- `STATUS_IDLE_BIT` (R15, R134). -/
opaque Config.statusIdleBit : Fin 8

/-- `STATUS_IDLE_VALUE` (R15, R134). -/
opaque Config.statusIdleValue : Bool

/-- What ERR_CODE holds after a transport error value wider than 32 bits (`ERR_WIDTH`, R38). -/
opaque Config.wideErrCode : Nat → Word

/-- `EPD_BASE`, the register block's bus address (R70). -/
opaque Config.epdBase : Nat

/-- Any colour bytes whatever; `Config.bgByte` takes them where they are admissible. -/
opaque Config.freeBgByte : Color → Byte

/-- `BG_BYTE` (R16, D15): any two different bytes. Where the free bytes are equal, which R16 does not admit, it is
the spec's default, so that it ranges over exactly the admissible maps. -/
def Config.bgByte (c : Color) : Byte :=
  if Config.freeBgByte .black ≠ Config.freeBgByte .white then Config.freeBgByte c
  else match c with
    | .black => 0x00#8
    | .white => 0xFF#8

/-- Any command bytes whatever; `Config.code` takes them where they are admissible. -/
opaque Config.freeCode : PanelCommand → Byte

/-- The constraints of 46_panel_commands.md R237 on a code map: the two fixed bytes, and injective. -/
abbrev Config.CodeAdmissible (f : PanelCommand → Byte) : Prop :=
  f .powerSetting = 0x00#8 ∧ f .forceTemperature = 0xE5#8 ∧ (PanelCommand.all.map f).Nodup

/-- One admissible code map: the informative bytes of 93_implementation_defined.md section 3, with PowerSetting and
PanelSetting exchanged as 90_conflicts.md C1 asks. It stands in only where the free map is not admissible. -/
def Config.someCode : PanelCommand → Byte
  | .powerSetting => 0x00#8
  | .panelSetting => 0x01#8
  | .powerOn => 0x04#8
  | .boosterSoftStart => 0x06#8
  | .deepSleep => 0x07#8
  | .dataStartTransmission1 => 0x10#8
  | .displayRefresh => 0x12#8
  | .dataStartTransmission2 => 0x13#8
  | .lutVcom => 0x20#8
  | .lutWW => 0x21#8
  | .lutBW => 0x22#8
  | .lutWB => 0x23#8
  | .lutBB => 0x24#8
  | .pllControl => 0x30#8
  | .vcomAndDataIntervalSetting => 0x50#8
  | .resolutionSetting => 0x61#8
  | .getStatus => 0x71#8
  | .vcmDcSetting => 0x82#8
  | .partialWindow => 0x90#8
  | .partialIn => 0x91#8
  | .forceTemperature => 0xE5#8

/-- `CODE` (R17, R237): any injective map with the two fixed bytes. It ranges over exactly the admissible maps. -/
def Config.code : PanelCommand → Byte
  | .powerSetting => 0x00#8
  | .forceTemperature => 0xE5#8
  | c => if Config.CodeAdmissible Config.freeCode then Config.freeCode c else Config.someCode c

/-! ### The environment's answers and moves (R11) -/

/-- The transport's answer to one byte write (40_framer.md R117): on an error, `sent` says whether the byte had been
emitted; `e` is the transport's own error value. -/
inductive TransportAnswer where
  | ok
  | err (e : Nat) (sent : Bool)
deriving DecidableEq, Repr, Inhabited

/-- The answers a sequencer step may need: a step reads the one its primitive asks for and ignores the others.
`mem` is the byte a MemRead returns where host memory does not fix it, `split` ends a PerWrite chunk (R115). -/
structure Draw where
  transport : TransportAnswer
  busy : Bool
  status : Byte
  mem : Byte
  split : Bool
deriving DecidableEq, Repr, Inhabited

/-- Which agent moves, with its answers (R11, R257). -/
inductive Move where
  /-- The host makes the next access of its program. -/
  | host
  /-- The sequencer takes one step, the environment answering with `d`. -/
  | sequencer (d : Draw)
  /-- The delay timer ends the running delay. -/
  | timer
  /-- The host stores a byte in its own memory. -/
  | hostStore (addr : Word) (b : Byte)
  /-- BLK_RST is asserted (70_reset_and_hazards.md R270). -/
  | blkRst
deriving DecidableEq, Repr, Inhabited

/-- The moves after the listed ones: the n-th is anything at all (log 1). -/
opaque Config.freeMove : Nat → Move

end Sys2Proof
end

