-- ==== Sys2Proof/WellFormed.lean ====
section
/-! DEFINITION. Which instructions are well-formed: LUTSEL not reserved (30_encoding.md R83), and for a panel command the
payload lengths and sources of the table of R91. -/

namespace Sys2Proof

/-- The number of bytes a payload source yields (40_framer.md R116). -/
def Payload.length : Payload → Nat
  | .bytes bs => bs.length
  | .fill _ n => n
  | .buf _ len => len
  | .bufCompl _ len => len
  | .lut f k => (Config.lut f k).length

/-- Why an instruction is not well-formed. -/
inductive FormError where
  /-- LUTSEL = 3 (R83). -/
  | reservedLutSel
  /-- A payload of another length than R91 gives the command. -/
  | payloadLength (expected : Nat)
  /-- A payload from a source R91 does not give the command. -/
  | payloadSource
deriving DecidableEq, Repr

/-- A constant or computed payload of exactly `n` bytes. -/
def FormError.ofConstant (n : Nat) : Payload → Option FormError
  | .bytes bs => if bs.length = n then none else some (.payloadLength n)
  | .fill _ _ | .buf _ _ | .bufCompl _ _ | .lut _ _ => some .payloadSource

/-- A LUT table of the given kind, of either family. -/
def FormError.ofLut (k : LutKind) : Payload → Option FormError
  | .lut _ k' => if k' = k then none else some .payloadSource
  | .bytes _ | .fill _ _ | .buf _ _ | .bufCompl _ _ => some .payloadSource

/-- What is wrong with the payload of a command, by R91; DeepSleep and ForceTemperature have no payload rule. -/
def FormError.ofPayload : PanelCommand → Payload → Option FormError
  | .powerSetting, p => FormError.ofConstant 5 p
  | .boosterSoftStart, p => FormError.ofConstant 3 p
  | .powerOn, p => FormError.ofConstant 0 p
  | .panelSetting, p => FormError.ofConstant 2 p
  | .pllControl, p => FormError.ofConstant 1 p
  | .resolutionSetting, p => FormError.ofConstant 3 p
  | .vcmDcSetting, p => FormError.ofConstant 1 p
  | .vcomAndDataIntervalSetting, p => FormError.ofConstant 1 p
  | .lutVcom, p => FormError.ofLut .vcom p
  | .lutWW, p => FormError.ofLut .ww p
  | .lutBW, p => FormError.ofLut .bw p
  | .lutWB, p => FormError.ofLut .wb p
  | .lutBB, p => FormError.ofLut .bb p
  | .dataStartTransmission1, .fill _ n => if n = Config.len then none else some (.payloadLength Config.len)
  | .dataStartTransmission1, .bufCompl _ _ => none
  | .dataStartTransmission1, .bytes _ | .dataStartTransmission1, .buf _ _ | .dataStartTransmission1, .lut _ _ =>
    some .payloadSource
  | .dataStartTransmission2, .fill _ n => if n = Config.len then none else some (.payloadLength Config.len)
  | .dataStartTransmission2, .buf _ _ => none
  | .dataStartTransmission2, .bytes _ | .dataStartTransmission2, .bufCompl _ _ | .dataStartTransmission2, .lut _ _ =>
    some .payloadSource
  | .displayRefresh, p => FormError.ofConstant 0 p
  | .partialIn, p => FormError.ofConstant 0 p
  | .partialWindow, p => FormError.ofConstant 7 p
  | .getStatus, p => FormError.ofConstant 0 p
  | .deepSleep, _ => none
  | .forceTemperature, _ => none

/-- The first thing wrong with an instruction, if any. -/
def Instr.formError (i : Instr) : Option FormError :=
  match i.cycle? with
  | some (c, p) => FormError.ofPayload c p
  | none =>
    match i with
    | .setLut .reserved => some .reservedLutSel
    | _ => none

/-- An instruction as the spec's encoding tables admit it. -/
abbrev Instr.WellFormed (i : Instr) : Prop := i.formError = none

end Sys2Proof
end

