-- ==== Sys2Proof/Decode.lean ====
section
/-! DEFINITION. The two encodings of 30_encoding.md, read and written: CTRL words (R80 to R89) and command cycles
(R90). Decoding is total; what is no instruction is rejected by name. -/

namespace Sys2Proof

/-- Why a byte sequence is no command cycle. -/
inductive DecodeError where
  /-- A cycle has at least its command byte (R90). -/
  | emptyCycle
  /-- The byte is `CODE(c)` for none of the 21 commands (R95, R236). -/
  | notACommandByte (b : Byte)
deriving DecidableEq, Repr

/-- An encoded instruction: a CTRL word, or the bytes of a command cycle, the command byte first (R66). -/
inductive Encoding where
  | ctrl (v : Word)
  | cycle (bs : List Byte)
deriving DecidableEq, Repr

/-- The LUTSEL field, bits 5:4 (R83). -/
def decodeLutSel (v : Word) : LutSel :=
  match (v.extractLsb' 4 2).toNat with
  | 0 => .noOverride
  | 1 => .full
  | 2 => .quick
  | _ => .reserved

/-- The COLOR field, bit 8 (R84). -/
def decodeColor (v : Word) : Color := if v.getLsbD 8 then .white else .black

/-- A CTRL word (R80 to R83): OP is bits 3:0, LUTSEL and COLOR are read only where OP asks for them (R81), every other
bit is ignored (R89). The last arm is OP = 0xF. -/
def decodeCtrl (v : Word) : Instr :=
  match (v.extractLsb' 0 4).toNat with
  | 0x0 => .reserved0
  | 0x1 => .init
  | 0x2 => .sleep
  | 0x3 => .updateFrame
  | 0x4 => .updatePartialFrame
  | 0x5 => .displayFrame
  | 0x6 => .updateAndDisplayFrame
  | 0x7 => .wakeUp
  | 0x8 => .clearFrame
  | 0x9 => .setBackground (decodeColor v)
  | 0xA => .getBackground
  | 0xB => .getWidth
  | 0xC => .getHeight
  | 0xD => .setLut (decodeLutSel v)
  | 0xE => .waitUntilIdle
  | _ => .reservedF

/-- The command whose byte this is, if any (R237: at most one). -/
def commandOf (b : Byte) : Option PanelCommand :=
  PanelCommand.all.find? fun c => Config.code c == b

/-- A command cycle read from its bytes (R90, R91). -/
def decodeCycle : List Byte → Except DecodeError Instr
  | [] => .error .emptyCycle
  | b :: bs =>
    match commandOf b with
    | some c => .ok (.ofCycle c (.bytes bs))
    | none => .error (.notACommandByte b)

/-- Decoding, total on both encodings. -/
def decode : Encoding → Except DecodeError Instr
  | .ctrl v => .ok (decodeCtrl v)
  | .cycle bs => decodeCycle bs

/-- The code of LUTSEL (R83). -/
def encodeLutSel : LutSel → Nat
  | .noOverride => 0
  | .full => 1
  | .quick => 2
  | .reserved => 3

/-- The code of COLOR (R84). -/
def encodeColor : Color → Nat
  | .black => 0
  | .white => 1

/-- The CTRL word `(COLOR<<8) | (LUTSEL<<4) | op` (R97), reserved bits clear. -/
def ctrlWord (op lutsel color : Nat) : Word :=
  (BitVec.ofNat 32 color <<< 8) ||| (BitVec.ofNat 32 lutsel <<< 4) ||| BitVec.ofNat 32 op

/-- The bytes of a payload that does not depend on host memory. -/
def Payload.static? : Payload → Option (List Byte)
  | .bytes bs => some bs
  | .fill b n => some (List.replicate n b)
  | .lut f k => some (Config.lut f k)
  | .buf _ _ | .bufCompl _ _ => none

/-- The bytes of a command cycle whose payload does not depend on host memory (R90). -/
def encodeCycle (c : PanelCommand) (p : Payload) : Option Encoding :=
  p.static?.map fun bs => .cycle (Config.code c :: bs)

/-- Encoding, written from R82 to R84 and R90; none only for a payload that is read from host memory. -/
def encode : Instr → Option Encoding
  | .reserved0 => some (.ctrl (ctrlWord 0x0 0 0))
  | .init => some (.ctrl (ctrlWord 0x1 0 0))
  | .sleep => some (.ctrl (ctrlWord 0x2 0 0))
  | .updateFrame => some (.ctrl (ctrlWord 0x3 0 0))
  | .updatePartialFrame => some (.ctrl (ctrlWord 0x4 0 0))
  | .displayFrame => some (.ctrl (ctrlWord 0x5 0 0))
  | .updateAndDisplayFrame => some (.ctrl (ctrlWord 0x6 0 0))
  | .wakeUp => some (.ctrl (ctrlWord 0x7 0 0))
  | .clearFrame => some (.ctrl (ctrlWord 0x8 0 0))
  | .setBackground c => some (.ctrl (ctrlWord 0x9 0 (encodeColor c)))
  | .getBackground => some (.ctrl (ctrlWord 0xA 0 0))
  | .getWidth => some (.ctrl (ctrlWord 0xB 0 0))
  | .getHeight => some (.ctrl (ctrlWord 0xC 0 0))
  | .setLut sel => some (.ctrl (ctrlWord 0xD (encodeLutSel sel) 0))
  | .waitUntilIdle => some (.ctrl (ctrlWord 0xE 0 0))
  | .reservedF => some (.ctrl (ctrlWord 0xF 0 0))
  | .powerSetting p => encodeCycle .powerSetting p
  | .boosterSoftStart p => encodeCycle .boosterSoftStart p
  | .powerOn p => encodeCycle .powerOn p
  | .panelSetting p => encodeCycle .panelSetting p
  | .pllControl p => encodeCycle .pllControl p
  | .resolutionSetting p => encodeCycle .resolutionSetting p
  | .vcmDcSetting p => encodeCycle .vcmDcSetting p
  | .vcomAndDataIntervalSetting p => encodeCycle .vcomAndDataIntervalSetting p
  | .lutVcom p => encodeCycle .lutVcom p
  | .lutWW p => encodeCycle .lutWW p
  | .lutBW p => encodeCycle .lutBW p
  | .lutWB p => encodeCycle .lutWB p
  | .lutBB p => encodeCycle .lutBB p
  | .dataStartTransmission1 p => encodeCycle .dataStartTransmission1 p
  | .dataStartTransmission2 p => encodeCycle .dataStartTransmission2 p
  | .displayRefresh p => encodeCycle .displayRefresh p
  | .partialIn p => encodeCycle .partialIn p
  | .partialWindow p => encodeCycle .partialWindow p
  | .getStatus p => encodeCycle .getStatus p
  | .deepSleep p => encodeCycle .deepSleep p
  | .forceTemperature p => encodeCycle .forceTemperature p

/-- A panel-command instruction with its payload written out as bytes: what a reader of the bus sees of it. -/
def Instr.literal (i : Instr) : Instr :=
  match i.cycle? with
  | none => i
  | some (c, p) =>
    match p.static? with
    | some bs => .ofCycle c (.bytes bs)
    | none => i

/-- The byte offset of a host register (20_memory.md R70). -/
def HostReg.offset : HostReg → Nat
  | .ctrl => 0x00
  | .status => 0x04
  | .result => 0x08
  | .errCode => 0x0C
  | .bufBase => 0x10
  | .bufLen => 0x14
  | .x => 0x18
  | .y => 0x1C
  | .w => 0x20
  | .h => 0x24

/-- The register at a byte offset; none for a reserved offset (R49, R70). Log 22. -/
def HostReg.ofOffset : Nat → Option HostReg
  | 0x00 => some .ctrl
  | 0x04 => some .status
  | 0x08 => some .result
  | 0x0C => some .errCode
  | 0x10 => some .bufBase
  | 0x14 => some .bufLen
  | 0x18 => some .x
  | 0x1C => some .y
  | 0x20 => some .w
  | 0x24 => some .h
  | _ => none

/-- The offset in the register block that a bus address selects: the block decodes 64 bytes from EPD_BASE (R70). -/
def hostOffset (addr : Nat) : Option Nat :=
  if Config.epdBase ≤ addr ∧ addr < Config.epdBase + 64 then some (addr - Config.epdBase) else none

/-- An admitted access: a 32-bit word at a multiple of 4 (20_memory.md R68). -/
abbrev Access.Admitted (a : Access) : Prop := a.width = 4 ∧ a.offset % 4 = 0

/-- The word access to a named register. -/
def HostReg.access (r : HostReg) : Access := { width := 4, offset := r.offset }

/-- The operand registers an operation reads, in the order of the table of R82. -/
def Instr.operandRegs : Instr → List HostReg
  | .updateFrame => [.bufBase, .bufLen]
  | .updatePartialFrame => [.bufBase, .bufLen, .x, .y, .w, .h]
  | .updateAndDisplayFrame => [.bufBase, .bufLen]
  | _ => []

/-- The expansion of a pseudo-instruction (R97): the operand writes, the CTRL write, the poll. None for a panel
command or a reserved code, which have no assembler mnemonic (R96). -/
def Instr.expand (i : Instr) (vs : List Word) : Option (List HostLine) :=
  match i, encode i with
  | .reserved0, _ => none
  | .reservedF, _ => none
  | .setLut .reserved, _ => none
  | i, some (.ctrl v) =>
    if vs.length = i.operandRegs.length then
      some ((i.operandRegs.zip vs).map (fun rv => .wr rv.1.access rv.2) ++ [.wr HostReg.ctrl.access v, .poll])
    else none
  | _, some (.cycle _) => none
  | _, none => none

/-- The command whose byte the source itself fixes (R215, R235), which is all a table word of eight bits can name. -/
def fixedCommand (w : Nat) : Option PanelCommand :=
  if w = 0x00 then some .powerSetting
  else if w = 0xE5 then some .forceTemperature
  else none

/-- The decoder's reading of a table word of `nbits` bits (log 28). A word of up to 8 bits that is a fixed command byte
is that command's cycle with no payload byte; any other is the CTRL word whose bits above `nbits` are 0. -/
def decodeTableWord (nbits w : Nat) : Option Instr :=
  if nbits ≤ 8 then
    match fixedCommand (w % 2 ^ nbits) with
    | some c => (decodeCycle [Config.code c]).toOption
    | none => some (decodeCtrl (BitVec.ofNat 32 (w % 2 ^ nbits)))
  else if nbits ≤ 32 then some (decodeCtrl (BitVec.ofNat 32 (w % 2 ^ nbits)))
  else none

end Sys2Proof
end

