-- ==== Sys2Proof/Machine/State.lean ====
section
/-! DEFINITION. The machine's state as plain data: everything spec/ gives the block, the pins, the transcript, the record of
what the panel controller was sent, host memory and the host's program; reset; the reasons a step stops. -/

namespace Sys2Proof.Machine

/-! ### Parts of the state -/

/-- The framing of a cycle (00_scope.md R21, 40_framer.md R113). -/
inductive Framing where
  | burst
  | perWrite
deriving DecidableEq, Repr, Inhabited

/-- Where busy is read (00_scope.md R15). -/
inductive BusySource where
  | pin
  | statusQuery
deriving DecidableEq, Repr, Inhabited

/-- A region of addresses host memory admits (20_memory.md R61). -/
structure Region where
  base : Nat
  size : Nat
deriving DecidableEq, Repr, Inhabited

/-- The platform's fixed choices, which no step changes. They stand in State so that a statement covers every choice
the spec describes; reset has this hardware's (log 9, log 18). -/
structure Platform where
  framing : Framing
  busySource : BusySource
  regions : List Region
deriving DecidableEq, Repr, Inhabited

/-- The six host argument registers (10_state.md R30). -/
structure Args where
  bufBase : Word
  bufLen : Word
  x : Word
  y : Word
  w : Word
  h : Word
deriving DecidableEq, Repr, Inhabited

/-- LIFECYCLE (10_state.md R37). -/
inductive Lifecycle where
  | uninit
  | ready
  | indeterminate
deriving DecidableEq, Repr, Inhabited

/-- One event of the transcript (00_scope.md R24): the byte-level kinds, and the pin-level `cs` and `dc`. -/
inductive Event where
  | cs (v : Bool)
  | dc (v : Bool)
  | rst (v : Bool)
  | delay (t : Nat)
  | cmd (b : Byte)
  | data (b : Byte)
  | sample (v : Bool)
  | statusRead (b : Byte)
deriving DecidableEq, Repr, Inhabited

/-- The event a cycle in progress emits next (40_framer.md R114, R115). The phases before the command byte carry the
command. -/
inductive Phase where
  /-- Burst: DC to the command level. -/
  | dcCmd (c : PanelCommand)
  /-- PerWrite: CS low before the command byte. -/
  | csCmd (c : PanelCommand)
  /-- The command byte. -/
  | cmdByte (c : PanelCommand)
  /-- PerWrite: CS high after the command byte. -/
  | csCmdHigh
  /-- DC to the data level. -/
  | dcData
  /-- PerWrite: CS low before a chunk of data. -/
  | csData
  /-- A data byte. -/
  | data
  /-- CS high: the end of a Burst cycle, or of a PerWrite chunk. -/
  | csHigh
  /-- CS high after the transport answered `Err(e)` to a byte that had gone out (R117, R118): the operation then ends by
  `abort Err(e)`. -/
  | failed (e : Nat)
deriving DecidableEq, Repr, Inhabited

/-- A command cycle, or a standalone data write, in progress (R111, R115): `sent` data bytes have gone out. -/
structure Cycle where
  framing : Framing
  payload : Payload
  phase : Phase
  sent : Nat
deriving DecidableEq, Repr, Inhabited

/-- The controller's LUT registers (R46.3). -/
structure LutRegs where
  vcom : List Byte
  ww : List Byte
  bw : List Byte
  wb : List Byte
  bb : List Byte
deriving DecidableEq, Repr, Inhabited

/-- What the panel controller has been sent, by the parts of its hidden state (10_state.md R46). It is a record of the
bus, not a claim of what the controller did with it, and no rule of the block reads it (log 27). -/
structure PanelRecord where
  /-- The command whose data bytes are arriving. -/
  cmd : Option PanelCommand
  plane1 : List Byte
  plane2 : List Byte
  luts : LutRegs
  /-- The "internal register pointer that advances implicitly" (R164). DESIGN CHOICE (log 34), the spec saying neither when
  it starts over nor how it moves: the LUT command bytes since the last VcomAndDataIntervalSetting command byte. -/
  lutPointer : Nat
  vcomDc : List Byte
  partialMode : Bool
  window : List Byte
  power : List Byte
  booster : List Byte
  powerOn : Bool
  panelSetting : List Byte
  pll : List Byte
  resolution : List Byte
  interval : List Byte
deriving DecidableEq, Repr, Inhabited

/-- A step of an operation's fixed step list (10_state.md R31, R32). Each emits at most one event. -/
inductive SeqStep where
  /-- `Pin(RST_N, v)`. -/
  | rst (v : Bool)
  /-- `Delay(t)`. -/
  | delay (t : Nat)
  /-- `Cycle(c, P)`: the panel command of the instruction is fetched and run. -/
  | cycle (i : Instr)
  /-- `Sample(BUSY)` and its test (41_busy_sync.md R131). -/
  | sample
  /-- `StatusRead()` and its test (R134). -/
  | statusRead
  /-- `Delay(T_POLL); goto loop`, where the loop began `back` steps before. -/
  | poll (back : Nat)
  /-- UPDATE_FRAME's check and MODE write (44_refresh.md R178, R179). -/
  | enterFull
  /-- UPDATE_PARTIAL_FRAME's checks and MODE write (R182). -/
  | enterPartial
  /-- SET_BACKGROUND's one step (45_accessors.md R205). -/
  | setBackground (c : Color)
  /-- GET_BACKGROUND's one step (R206). -/
  | getBackground
  /-- GET_WIDTH's one step (R207). -/
  | getWidth
  /-- GET_HEIGHT's one step (R208). -/
  | getHeight
  /-- INIT's completion (42_init.md R154). -/
  | finishInit
  /-- Any other completion: `x[INFLIGHT] <- 0`. -/
  | finish
deriving DecidableEq, Repr, Inhabited

/-- Bytes at strictly rising addresses. An address not listed has no byte of its own (log 17). -/
abbrev Memory := List Host.Cell

/-! ### The state -/

/-- Everything spec/ gives the machine. -/
structure State where
  /-- BUF_BASE, BUF_LEN, X, Y, W, H (R30). -/
  args : Args
  /-- The operands latched at acceptance (20_memory.md R73). -/
  latched : Args
  /-- SEQ's operation (R31); its CTRL fields are its operands. -/
  seqOp : Option Instr
  /-- SEQ's step index (R31). -/
  seqStep : Nat
  /-- STATUS bit 0 (R34). -/
  inflight : Bool
  /-- STATUS bit 1 (R38). -/
  err : Bool
  /-- STATUS bit 2 (R39). -/
  fault : Bool
  /-- STATUS bits 7:4 (R39, 60_exceptions.md R241). -/
  faultCode : BitVec 4
  /-- STATUS bit 8, the Refresh Mode (R35). -/
  mode : Family
  /-- STATUS bit 9, the Background Color (R36). -/
  bg : Color
  /-- STATUS bits 11:10 (R37). -/
  lifecycle : Lifecycle
  /-- ERR_CODE (R38). -/
  errCode : Word
  /-- RESULT (R40). -/
  result : Word
  /-- The CS_N pin (R42). -/
  csN : Bool
  /-- The DC pin (R42). -/
  dc : Bool
  /-- The RST_N pin (R42). -/
  rstN : Bool
  /-- The command cycle in progress. -/
  cyc : Option Cycle
  /-- The running delay, in microseconds (41_busy_sync.md R136, 70_reset_and_hazards.md R291). -/
  timer : Option Nat
  /-- The transcript, oldest event first (R24). -/
  trace : List Event
  /-- What the controller has been sent (R46). -/
  panel : PanelRecord
  /-- Host memory: the bytes the host has placed (20_memory.md R60, R61). -/
  mem : Memory
  /-- The bytes that a first read has drawn at admitted addresses where the host has placed none; every later read gives
  the same byte (R63, log 17). -/
  drawn : Memory
  /-- The platform's fixed choices. -/
  cfg : Platform
  /-- Buffer addresses the host has written during the operation in flight (R63). -/
  tainted : List Nat
  /-- The host's program: the lines still to run (30_encoding.md R96). -/
  prog : List HostLine
  /-- The data of the host's last register read. -/
  rdata : Word
  /-- THE MODEL'S OWN: the agents' next moves (log 1). -/
  script : List Move
  /-- THE MODEL'S OWN: how many free moves have been drawn (log 1). -/
  tick : Nat
deriving DecidableEq, Repr

/-- Reasons a step stops the machine. -/
inductive Fault where
  /-- Raised by the sequencer when an operation is in flight and SEQ names no step of its list. The spec has no such
  position (R32); no run from reset reaches one. SAFE: the model stops where nothing is said (log 30). -/
  | sequencerOffList
deriving DecidableEq, Repr

/-- Reasons a step is not modelled. -/
inductive Refusal where
  /-- Raised by exec's arms for an instruction without a meaning. SAFE. -/
  | notModelled (mnemonic : String)
  /-- Raised by the host port for a host access that is not an aligned 32-bit word, of which 20_memory.md R68 says "the
  model refuses a host program that contains one". SAFE. -/
  | hostAccess (width offset : Nat)
deriving DecidableEq, Repr

/-! ### Reset -/

/-- The panel record before anything was sent (log 27). -/
def PanelRecord.empty : PanelRecord :=
  { cmd := none, plane1 := [], plane2 := [], luts := ⟨[], [], [], [], []⟩, lutPointer := 0, vcomDc := [],
    partialMode := false, window := [], power := [], booster := [], powerOn := false, panelSetting := [], pll := [],
    resolution := [], interval := [] }

/-- All six argument registers 0 (R48). -/
def Args.zero : Args := { bufBase := 0#32, bufLen := 0#32, x := 0#32, y := 0#32, w := 0#32, h := 0#32 }

/-- This hardware: Burst framing, the BUSY pin (R15, R21), and host memory that admits every 32-bit address (log 18). -/
def Platform.thisHardware : Platform :=
  { framing := .burst, busySource := .pin, regions := [{ base := 0, size := 2 ^ 32 }] }

/-- The machine right after block reset (10_state.md R48, 70_reset_and_hazards.md R270). -/
def State.reset : State :=
  { args := Args.zero, latched := Args.zero, seqOp := none, seqStep := 0, inflight := false, err := false,
    fault := false, faultCode := 0#4, mode := .full, bg := Config.bgDefault, lifecycle := .uninit, errCode := 0#32,
    result := 0#32, csN := true, dc := true, rstN := true, cyc := none, timer := none, trace := [],
    panel := PanelRecord.empty, mem := [], drawn := [], cfg := Platform.thisHardware, tainted := [], prog := [], rdata := 0#32,
    script := [], tick := 0 }

end Sys2Proof.Machine
end

