-- ==== Sys2Proof/Machine/Flags.lean ====
section
/-! DEFINITION. The STATUS word and its fields' codes (10_state.md R33 to R39, 30_encoding.md R86), and the fault codes
(60_exceptions.md R241). -/

namespace Sys2Proof.Machine

/-- The code of MODE (R33): 0 = Full, 1 = Quick. -/
def modeCode : Family → Nat
  | .full => 0
  | .quick => 1

/-- The code of LIFECYCLE (R37). -/
def lifecycleCode : Lifecycle → Nat
  | .uninit => 0
  | .ready => 1
  | .indeterminate => 2

/-- A one-bit STATUS field. -/
def flagCode (b : Bool) : Nat := if b then 1 else 0

/-- The STATUS word (R33); reserved bits read 0. -/
def statusWord (s : State) : Word :=
  BitVec.ofNat 32
    (flagCode s.inflight + 2 * flagCode s.err + 4 * flagCode s.fault + 16 * s.faultCode.toNat
      + 256 * modeCode s.mode + 512 * encodeColor s.bg + 1024 * lifecycleCode s.lifecycle)

/-- IllegalOp (R244). -/
def codeIllegalOp : BitVec 4 := 1#4

/-- Reentrant (R248). -/
def codeReentrant : BitVec 4 := 2#4

/-- NotReady (R245). -/
def codeNotReady : BitVec 4 := 3#4

/-- BufferLength (R246). -/
def codeBufferLength : BitVec 4 := 4#4

/-- PartialLength (R247). -/
def codePartialLength : BitVec 4 := 5#4

/-- PartialAlignX (R249). -/
def codePartialAlignX : BitVec 4 := 6#4

/-- PartialAlignW (R249). -/
def codePartialAlignW : BitVec 4 := 7#4

/-- PartialModeNotFull (R251). -/
def codePartialModeNotFull : BitVec 4 := 8#4

/-- WindowRange (R252). -/
def codeWindowRange : BitVec 4 := 9#4

/-- What ERR_CODE takes of a transport error value (R38): the value itself where 32 bits hold it, else an open value
(`ERR_WIDTH`, log 11). -/
def errCodeOf (e : Nat) : Word := if e < 2 ^ 32 then BitVec.ofNat 32 e else Config.wideErrCode e

/-- `s[STATUS_IDLE_BIT] = STATUS_IDLE_VALUE` (41_busy_sync.md R134). -/
def statusIdle (b : Byte) : Bool := b.getLsbD Config.statusIdleBit.val == Config.statusIdleValue

end Sys2Proof.Machine
end

