-- ==== Sys2Proof/Machine/Ops.lean ====
section
/-! DEFINITION. The shared operations on the state: host memory, the transcript and the pins, acceptance of a CTRL write
(30_encoding.md R98), taking a fault and a transport error (60_exceptions.md R243, R248, R250), completion, block reset. -/

namespace Sys2Proof.Machine

/-! ### Host memory (20_memory.md section 1) -/

/-- The canonical form: addresses below 2^32 and strictly rising. An unlisted address has no value of its own, so no
entry can equal it. -/
def Memory.wf : Memory → Bool
  | [] => true
  | (a, _) :: rest => decide (a < 2 ^ 32) && rest.all (fun c => decide (a < c.1)) && Memory.wf rest

/-- The byte the host has placed at an address. -/
def Memory.read? : Memory → Nat → Option Byte
  | [], _ => none
  | (a, b) :: rest, k => if k = a then some b else Memory.read? rest k

/-- Place a byte, keeping the list in order. -/
def Memory.write : Memory → Nat → Byte → Memory
  | [], k, v => [(k, v)]
  | (a, b) :: rest, k, v =>
    if k < a then (k, v) :: (a, b) :: rest
    else if k = a then (a, v) :: rest
    else (a, b) :: Memory.write rest k v

/-- Take a byte off the list. -/
def Memory.erase : Memory → Nat → Memory
  | [], _ => []
  | (a, b) :: rest, k => if k = a then rest else (a, b) :: Memory.erase rest k

/-- An address inside a region. -/
def Region.holds (r : Region) (a : Nat) : Bool := decide (r.base ≤ a ∧ a < r.base + r.size)

/-- The addresses host memory admits: 32 bits wide, in a region of the platform (R61, log 18). -/
def admits (s : State) (a : Nat) : Bool := decide (a < 2 ^ 32) && s.cfg.regions.any (fun r => r.holds a)

/-- The byte an address holds: the one the host has placed, else the one a first read has drawn (log 17). -/
def hostByte? (s : State) (a : Nat) : Option Byte := (Memory.read? s.mem a).or (Memory.read? s.drawn a)

/-- `MemRead(a, 1)` (R61): none where host memory does not admit the address. The step's draw gives the byte where the
host broke its duty (R63, log 20), and at the first read of an address where it has placed none (log 17). -/
def memRead (s : State) (d : Draw) (a : Nat) : Option Byte :=
  if admits s a then
    if a ∈ s.tainted then some d.mem else some ((hostByte? s a).getD d.mem)
  else none

/-- A first read of an address where the host has placed no byte settles the byte it drew: while the host keeps its duty,
two reads of one address give the same value (R63, log 17). -/
def noteRead (d : Draw) (a : Nat) (s : State) : State :=
  if admits s a && !s.tainted.contains a && (hostByte? s a).isNone then
    { s with drawn := Memory.write s.drawn a d.mem }
  else s

/-- Whether an operation reads the host buffer (R82). -/
def readsBuffer : Instr → Bool
  | .updateFrame | .updatePartialFrame | .updateAndDisplayFrame => true
  | _ => false

/-- Whether an address lies in the buffer of the operation in flight (R63). -/
def inLiveBuffer (s : State) (a : Nat) : Bool :=
  s.inflight && (s.seqOp.map readsBuffer).getD false &&
    decide (s.latched.bufBase.toNat ≤ a ∧ a < s.latched.bufBase.toNat + s.latched.bufLen.toNat)

/-- The host stores a byte in its own memory (R60, R63): inside the live buffer that breaks the host's duty, and the
address reads as a draw until the operation ends. Memory that is not admitted does not take the byte. -/
def hostStore (a : Word) (b : Byte) (s : State) : State :=
  if admits s a.toNat then
    { s with
      mem := Memory.write s.mem a.toNat b
      drawn := Memory.erase s.drawn a.toNat
      tainted := if inLiveBuffer s a.toNat && !s.tainted.contains a.toNat then a.toNat :: s.tainted else s.tainted }
  else s

/-! ### Transcript, pins and the record of the bus -/

/-- Append an event (00_scope.md R24). -/
def emit (e : Event) (s : State) : State := { s with trace := s.trace ++ [e] }

/-- Drive CS_N, with its pin-level event. -/
def driveCs (v : Bool) (s : State) : State := { s with csN := v, trace := s.trace ++ [.cs v] }

/-- Drive DC, with its pin-level event. -/
def driveDc (v : Bool) (s : State) : State := { s with dc := v, trace := s.trace ++ [.dc v] }

/-- Drive RST_N, with its event. -/
def driveRst (v : Bool) (s : State) : State := { s with rstN := v, trace := s.trace ++ [.rst v] }

/-- Start a delay, with its event (41_busy_sync.md R136); the timer ends it. -/
def startDelay (t : Nat) (s : State) : State := { s with timer := some t, trace := s.trace ++ [.delay t] }

/-- The record of a command byte (10_state.md R46): the register the command loads starts over (log 27). DESIGN CHOICE
(log 34): the LUT register pointer starts over at VcomAndDataIntervalSetting and goes on by one at each LUT command. -/
def PanelRecord.command (c : PanelCommand) (r : PanelRecord) : PanelRecord :=
  match c with
  | .powerSetting => { r with cmd := some c, power := [] }
  | .boosterSoftStart => { r with cmd := some c, booster := [] }
  | .powerOn => { r with cmd := some c, powerOn := true }
  | .panelSetting => { r with cmd := some c, panelSetting := [] }
  | .pllControl => { r with cmd := some c, pll := [] }
  | .resolutionSetting => { r with cmd := some c, resolution := [] }
  | .vcmDcSetting => { r with cmd := some c, vcomDc := [] }
  | .vcomAndDataIntervalSetting => { r with cmd := some c, interval := [], lutPointer := 0 }
  | .lutVcom => { r with cmd := some c, luts := { r.luts with vcom := [] }, lutPointer := r.lutPointer + 1 }
  | .lutWW => { r with cmd := some c, luts := { r.luts with ww := [] }, lutPointer := r.lutPointer + 1 }
  | .lutBW => { r with cmd := some c, luts := { r.luts with bw := [] }, lutPointer := r.lutPointer + 1 }
  | .lutWB => { r with cmd := some c, luts := { r.luts with wb := [] }, lutPointer := r.lutPointer + 1 }
  | .lutBB => { r with cmd := some c, luts := { r.luts with bb := [] }, lutPointer := r.lutPointer + 1 }
  | .dataStartTransmission1 => { r with cmd := some c, plane1 := [] }
  | .dataStartTransmission2 => { r with cmd := some c, plane2 := [] }
  | .displayRefresh => { r with cmd := some c }
  | .partialIn => { r with cmd := some c, partialMode := true }
  | .partialWindow => { r with cmd := some c, window := [] }
  | .getStatus => { r with cmd := some c }
  | .deepSleep => { r with cmd := some c }
  | .forceTemperature => { r with cmd := some c }

/-- The record of a data byte: it goes to the register of the current command. -/
def PanelRecord.data (b : Byte) (r : PanelRecord) : PanelRecord :=
  match r.cmd with
  | some .powerSetting => { r with power := r.power ++ [b] }
  | some .boosterSoftStart => { r with booster := r.booster ++ [b] }
  | some .panelSetting => { r with panelSetting := r.panelSetting ++ [b] }
  | some .pllControl => { r with pll := r.pll ++ [b] }
  | some .resolutionSetting => { r with resolution := r.resolution ++ [b] }
  | some .vcmDcSetting => { r with vcomDc := r.vcomDc ++ [b] }
  | some .vcomAndDataIntervalSetting => { r with interval := r.interval ++ [b] }
  | some .lutVcom => { r with luts := { r.luts with vcom := r.luts.vcom ++ [b] } }
  | some .lutWW => { r with luts := { r.luts with ww := r.luts.ww ++ [b] } }
  | some .lutBW => { r with luts := { r.luts with bw := r.luts.bw ++ [b] } }
  | some .lutWB => { r with luts := { r.luts with wb := r.luts.wb ++ [b] } }
  | some .lutBB => { r with luts := { r.luts with bb := r.luts.bb ++ [b] } }
  | some .dataStartTransmission1 => { r with plane1 := r.plane1 ++ [b] }
  | some .dataStartTransmission2 => { r with plane2 := r.plane2 ++ [b] }
  | some .partialWindow => { r with window := r.window ++ [b] }
  | some .powerOn | some .displayRefresh | some .partialIn | some .getStatus | some .deepSleep
  | some .forceTemperature | none => r

/-- A command byte goes out: its event, and the record. -/
def emitCommand (c : PanelCommand) (s : State) : State :=
  { s with trace := s.trace ++ [.cmd (Config.code c)], panel := s.panel.command c }

/-- A data byte goes out: its event, and the record. -/
def emitData (b : Byte) (s : State) : State :=
  { s with trace := s.trace ++ [.data b], panel := s.panel.data b }

/-! ### The sequencer's position -/

/-- The next step of the list. -/
def advance (k : Nat) (s : State) : State := { s with seqStep := s.seqStep + k }

/-- Back to the head of a loop. -/
def goBack (k : Nat) (s : State) : State := { s with seqStep := s.seqStep - k }

/-- The sequencer lets go of the operation: `SEQ <- (None, 0)`, `x[INFLIGHT] <- 0` (R32), and with it the cycle, the
delay and the memory of a broken buffer duty. -/
def leaveOp (s : State) : State :=
  { s with seqOp := none, seqStep := 0, inflight := false, cyc := none, timer := none, tainted := [] }

/-! ### Faults and errors: how they are entered -/

/-- `raise <Fault>(code)` (60_exceptions.md R243). -/
def raiseFault (code : BitVec 4) (s : State) : State :=
  { leaveOp s with fault := true, faultCode := code }

/-- A CTRL write while an operation is in flight (R248): the operation is abandoned, CS_N driven to 1, no event emitted
(log 15). -/
def raiseReentrant (s : State) : State :=
  { raiseFault codeReentrant s with csN := true }

/-- `abort Err(e)` (R250). -/
def abortErr (e : Nat) (s : State) : State :=
  { leaveOp s with err := true, errCode := errCodeOf e, lifecycle := .indeterminate }

/-- The framer's handling of a failed write (40_framer.md R118), then `abort`: CS(1) if CS_N was 0, and DC at the data
level as R123 says of a cycle that ended by error, without an event (log 14). -/
def transportError (e : Nat) (s : State) : State :=
  abortErr e { (if s.csN then s else driveCs true s) with dc := Config.dcDataLevel }

/-! ### Acceptance -/

/-- The operations that need LIFECYCLE = Ready (30_encoding.md R82, R98). -/
def needsReady : Instr → Bool
  | .updateFrame | .updatePartialFrame | .displayFrame | .updateAndDisplayFrame | .clearFrame | .setLut _ => true
  | _ => false

/-- An encoding that names no operation (R83, R88). -/
def illegalOp : Instr → Bool
  | .reserved0 | .reservedF | .setLut .reserved => true
  | _ => false

/-- The start of an accepted operation (R98): latch the operands, clear ERR, set INFLIGHT, `SEQ <- (op, 0)`. -/
def startOp (i : Instr) (s : State) : State :=
  { s with latched := s.args, err := false, inflight := true, seqOp := some i, seqStep := 0 }

/-- Acceptance of a CTRL write of the operation `i` (R98), its checks in the order written. -/
def accept (i : Instr) (s : State) : State :=
  if s.fault then s
  else if s.inflight then raiseReentrant s
  else if illegalOp i then raiseFault codeIllegalOp s
  else if needsReady i && decide (s.lifecycle ≠ .ready) then raiseFault codeNotReady s
  else startOp i s

/-! ### Block reset -/

/-- BLK_RST (70_reset_and_hazards.md R270): every register, pin and sequencer field at its reset value and an empty
transcript. What is not the block's stays: host memory and program, the platform, the record of the panel (log 26). -/
def blockReset (s : State) : State :=
  { State.reset with
    panel := s.panel, mem := s.mem, drawn := s.drawn, cfg := s.cfg, prog := s.prog, rdata := s.rdata
    script := s.script, tick := s.tick }

end Sys2Proof.Machine
end

