-- ==== Sys2Proof/Machine/Operands.lean ====
section
/-! DEFINITION. The operand forms: latched operands as unbounded integers (00_scope.md R22), the partial-window and
resolution descriptors (30_encoding.md R93, R94), payload sources byte by byte (40_framer.md R116). -/

namespace Sys2Proof.Machine

/-- `fam(sel)` (43_lut.md R161). -/
def fam : Option Family → Family
  | some .quick => .quick
  | some .full => .full
  | none => .full

/-- The value of one descriptor byte, if it is a byte (R93). -/
def byteOfInt (v : Int) : Option Byte :=
  if 0 ≤ v ∧ v ≤ 255 then some (BitVec.ofNat 8 v.toNat) else none

/-- `[X, X+W-1, Y/256, Y%256, (Y+H)/256, (Y+H)%256 - 1]` over unbounded integers (R93). -/
def windowInts (x y w h : Nat) : List Int :=
  [(x : Int), (x : Int) + w - 1, ((y / 256 : Nat) : Int), ((y % 256 : Nat) : Int),
   (((y + h) / 256 : Nat) : Int), (((y + h) % 256 : Nat) : Int) - 1]

/-- The descriptor bytes d0 to d5, or none where one of them lies outside 0..255. -/
def windowBytes (x y w h : Nat) : Option (List Byte) := (windowInts x y w h).mapM byteOfInt

/-- The latched window operands' descriptor. -/
def latchedWindow (a : Args) : Option (List Byte) := windowBytes a.x.toNat a.y.toNat a.w.toNat a.h.toNat

/-- `[WIDTH % 256, (HEIGHT / 256) % 256, HEIGHT % 256]` (R94), high byte of the height first (R65). -/
def resolutionBytes : List Byte :=
  [BitVec.ofNat 8 (Config.width % 256), BitVec.ofNat 8 ((Config.height / 256) % 256),
   BitVec.ofNat 8 (Config.height % 256)]

/-- The latched buffer, verbatim (20_memory.md R62). -/
def bufPayload (a : Args) : Payload := .buf a.bufBase.toNat a.bufLen.toNat

/-- The latched buffer, complemented (R62). -/
def bufComplPayload (a : Args) : Payload := .bufCompl a.bufBase.toNat a.bufLen.toNat

/-- The `i`-th byte of a payload (R116); none where a MemRead is not admitted (20_memory.md R61). The buffer's range is
over unbounded integers, so it does not wrap at 2^32. -/
def payloadByte (s : State) (d : Draw) : Payload → Nat → Option Byte
  | .bytes bs, i => bs[i]?
  | .fill b n, i => if i < n then some b else none
  | .buf base len, i => if i < len then memRead s d (base + i) else none
  | .bufCompl base len, i => if i < len then (memRead s d (base + i)).map (fun b => ~~~b) else none
  | .lut f k, i => (Config.lut f k)[i]?

/-- What reading the `i`-th byte of a payload leaves of host memory (`noteRead`). -/
def noteByte (d : Draw) (p : Payload) (i : Nat) (s : State) : State :=
  match p with
  | .buf base len => if i < len then noteRead d (base + i) s else s
  | .bufCompl base len => if i < len then noteRead d (base + i) s else s
  | .bytes _ | .fill _ _ | .lut _ _ => s

end Sys2Proof.Machine
end

