-- ==== Sys2Proof/Machine/Framer.lean ====
section
/-! DEFINITION. The command framing layer (40_framer.md): a cycle is begun by a panel command's meaning and then runs one
pin- or byte-level event a step, in Burst (R114) or PerWrite (R115) framing. -/

namespace Sys2Proof.Machine

/-- Begin `Cycle(c, P)` (R111) with its first pin event: CS(0) in Burst (R114), DC at the command level in PerWrite
(R115). -/
def beginCycle (c : PanelCommand) (p : Payload) (s : State) : Host.Outcome State Fault Refusal :=
  match s.cfg.framing with
  | .burst => .next { driveCs false s with cyc := some ⟨.burst, p, .dcCmd c, 0⟩ }
  | .perWrite => .next { driveDc Config.dcCmdLevel s with cyc := some ⟨.perWrite, p, .csCmd c, 0⟩ }

/-- Begin `DataOnly(P)` (R115), a standalone data write, of which `send_repeated_byte(b, n)` is `DataOnly(repeat(b, n))`.
No operation of the spec calls it directly. -/
def beginDataOnly (p : Payload) (s : State) : State :=
  { s with cyc := some ⟨.perWrite, p, .dcData, 0⟩ }

/-- The cycle in progress goes on to another phase. -/
def toPhase (c : Cycle) (ph : Phase) (s : State) : State := { s with cyc := some { c with phase := ph } }

/-- The cycle is over, and with it a step of the list. -/
def endCycle (s : State) : State := { s with cyc := none, seqStep := s.seqStep + 1 }

/-- One byte write of a cycle (R117): `out` emits the byte, which is the step's one event (10_state.md R32). Where the
transport fails, a byte that has gone out is this step's event and CS(1) the next step's; where it has not, CS(1) is this
step's (R118, log 13). -/
def busWrite (c : Cycle) (d : Draw) (out : State → State) (go : State → State) (s : State) : State :=
  match d.transport with
  | .ok => go (out s)
  | .err e true => toPhase c (.failed e) (out s)
  | .err e false => transportError e s

/-- After a data byte: CS goes high at the payload's end, and in PerWrite also where the chunk ends (R115). -/
def afterData (c : Cycle) (d : Draw) (s : State) : State :=
  let c' := { c with sent := c.sent + 1 }
  if c.sent + 1 = c.payload.length then toPhase c' .csHigh s
  else match c.framing with
    | .burst => toPhase c' .data s
    | .perWrite => toPhase c' (if d.split then .csHigh else .data) s

/-- One step of the cycle in progress. A payload byte that host memory does not admit leaves the block stuck (20_memory.md
R61, R116): the step changes nothing. -/
def cycleStep (c : Cycle) (d : Draw) (s : State) : State :=
  match c.phase with
  | .dcCmd k => toPhase c (.cmdByte k) (driveDc Config.dcCmdLevel s)
  | .csCmd k => toPhase c (.cmdByte k) (driveCs false s)
  | .cmdByte k =>
    busWrite c d (emitCommand k)
      (toPhase c (match c.framing with | .burst => .dcData | .perWrite => .csCmdHigh)) s
  | .csCmdHigh => toPhase c .dcData (driveCs true s)
  | .dcData =>
    match c.framing, decide (c.payload.length = 0) with
    | .burst, true => toPhase c .csHigh (driveDc Config.dcDataLevel s)
    | .burst, false => toPhase c .data (driveDc Config.dcDataLevel s)
    | .perWrite, true => endCycle (driveDc Config.dcDataLevel s)
    | .perWrite, false => toPhase c .csData (driveDc Config.dcDataLevel s)
  | .csData => toPhase c .data (driveCs false s)
  | .data =>
    match payloadByte s d c.payload c.sent with
    | none => s
    | some b => busWrite c d (emitData b) (afterData c d) (noteByte d c.payload c.sent s)
  | .csHigh =>
    if c.sent = c.payload.length then endCycle (driveCs true s)
    else toPhase c .csData (driveCs true s)
  | .failed e => transportError e s

end Sys2Proof.Machine
end

