-- ==== Sys2Proof/Machine/BusySync.lean ====
section
/-! DEFINITION. The busy-synchronisation unit (41_busy_sync.md): the steps of `WaitIdle()`, and the operation
WAIT_UNTIL_IDLE (45_accessors.md R209). -/

namespace Sys2Proof.Machine

/-- The steps of `WaitIdle()` (R131 for the pin, R134 for the status query). An idle answer jumps past the poll. -/
def waitIdleSteps : BusySource → List SeqStep
  | .pin => [.sample, .poll 1]
  | .statusQuery => [.cycle (.getStatus (.bytes [])), .statusRead, .poll 2]

/-- `v <- Sample(BUSY); if v = BUSY_IDLE_LEVEL: return` (R131). -/
def sampleStep (d : Draw) (s : State) : State :=
  if d.busy = Config.busyIdleLevel then advance 2 (emit (.sample d.busy) s) else advance 1 (emit (.sample d.busy) s)

/-- `s <- StatusRead(); if s[STATUS_IDLE_BIT] = STATUS_IDLE_VALUE: return` (R134). The mechanism is OPEN: one step that
draws a byte (log 10). -/
def statusReadStep (d : Draw) (s : State) : State :=
  if statusIdle d.status then advance 2 (emit (.statusRead d.status) s)
  else advance 1 (emit (.statusRead d.status) s)

/-- `Delay(T_POLL); goto loop` (R131). -/
def pollStep (back : Nat) (s : State) : State := goBack back (startDelay Config.tPoll s)

/-- The steps of WAIT_UNTIL_IDLE (45_accessors.md R209). -/
def waitUntilIdleSteps (src : BusySource) : List SeqStep := waitIdleSteps src ++ [.finish]

/-- WAIT_UNTIL_IDLE: accepted in every LIFECYCLE state (R209), then `waitUntilIdleSteps`. -/
def execWaitUntilIdle (s : State) : Host.Outcome State Fault Refusal := .next (accept .waitUntilIdle s)

end Sys2Proof.Machine
end

