-- ==== Sys2Proof/Machine/Init.lean ====
section
/-! DEFINITION. The initialisation sequencer (42_init.md): INIT and WAKE_UP. -/

namespace Sys2Proof.Machine

/-- The steps of INIT (R146), numbered as R147 to R154 number them. -/
def initSteps (src : BusySource) : List SeqStep :=
  [.rst false, .delay Config.tRstLow, .rst true, .delay Config.tRstHigh,
   .cycle (.powerSetting (.bytes Config.pwrPayload.toList)),
   .cycle (.boosterSoftStart (.bytes Config.boostPayload.toList)),
   .cycle (.powerOn (.bytes []))] ++ waitIdleSteps src ++
  [.cycle (.panelSetting (.bytes Config.psrPayload.toList)),
   .cycle (.pllControl (.bytes Config.pllPayload.toList)),
   .cycle (.resolutionSetting (.bytes resolutionBytes)),
   .cycle (.vcmDcSetting (.bytes Config.vdcPayload.toList))] ++ waitIdleSteps src ++ [.finishInit]

/-- The steps of WAKE_UP: exactly those of INIT (R156). -/
def wakeUpSteps (src : BusySource) : List SeqStep := initSteps src

/-- The completion of INIT and WAKE_UP (R154). -/
def finishInitStep (s : State) : State := { leaveOp s with lifecycle := .ready }

/-- INIT: accepted in every LIFECYCLE state (R145, R146), then `initSteps`. -/
def execInit (s : State) : Host.Outcome State Fault Refusal := .next (accept .init s)

/-- WAKE_UP: as INIT (R156), then `wakeUpSteps`. -/
def execWakeUp (s : State) : Host.Outcome State Fault Refusal := .next (accept .wakeUp s)

end Sys2Proof.Machine
end

