-- ==== Sys2Proof/Machine/Lut.lean ====
section
/-! DEFINITION. The LUT selector (43_lut.md): `LoadLuts(sel)` and SET_LUT. -/

namespace Sys2Proof.Machine

/-- The six loading cycles of a family, in the fixed order (R162, R164). -/
def lutCycles (f : Family) : List SeqStep :=
  [.cycle (.vcomAndDataIntervalSetting (.bytes [Config.vcomDataInterval])),
   .cycle (.lutVcom (.lut f .vcom)), .cycle (.lutWW (.lut f .ww)), .cycle (.lutBW (.lut f .bw)),
   .cycle (.lutWB (.lut f .wb)), .cycle (.lutBB (.lut f .bb))]

/-- `LoadLuts(sel)` (R162): the VCOM-DC override first, for the Quick family only (R163). -/
def loadLuts (sel : Option Family) : List SeqStep :=
  match fam sel with
  | .quick => .cycle (.vcmDcSetting (.bytes [Config.quickVdcOverride])) :: lutCycles .quick
  | .full => lutCycles .full

/-- The steps of SET_LUT (R167). The reserved selection is never accepted (R83), so it has no steps. -/
def setLutSteps : LutSel → List SeqStep
  | .noOverride => loadLuts none ++ [.finish]
  | .full => loadLuts (some .full) ++ [.finish]
  | .quick => loadLuts (some .quick) ++ [.finish]
  | .reserved => []

/-- SET_LUT: IllegalOp for LUTSEL = 3, NotReady unless Ready (R167), then `setLutSteps`. -/
def execSetLut (sel : LutSel) (s : State) : Host.Outcome State Fault Refusal := .next (accept (.setLut sel) s)

end Sys2Proof.Machine
end

