-- ==== Sys2Proof/Machine/Refresh.lean ====
section
/-! DEFINITION. The refresh state machine (44_refresh.md): UPDATE_FRAME, UPDATE_PARTIAL_FRAME, DISPLAY_FRAME,
UPDATE_AND_DISPLAY_FRAME, CLEAR_FRAME, SLEEP. -/

namespace Sys2Proof.Machine

/-- `Trigger()` (R190): `Cycle(DisplayRefresh, []); Delay(T_SETTLE); WaitIdle()`. -/
def triggerSteps (src : BusySource) : List SeqStep :=
  [.cycle (.displayRefresh (.bytes [])), .delay Config.tSettle] ++ waitIdleSteps src

/-- The two plane cycles of a full-frame update (R180, R181). -/
def fullPlanes (bg : Color) (a : Args) : List SeqStep :=
  [.cycle (.dataStartTransmission1 (.fill (Config.bgByte bg) Config.len)),
   .cycle (.dataStartTransmission2 (bufPayload a))]

/-- UPDATE_FRAME's check and MODE write (R178, R179), before the first event. -/
def enterFullStep (s : State) : State :=
  if s.latched.bufLen.toNat ≠ Config.len then raiseFault codeBufferLength s
  else advance 1 { s with mode := .full }

/-- The steps of UPDATE_FRAME (R177). -/
def updateFrameSteps (bg : Color) (a : Args) : List SeqStep := .enterFull :: fullPlanes bg a ++ [.finish]

/-- UPDATE_PARTIAL_FRAME's checks, in the order of R182, and its MODE write. -/
def enterPartialStep (s : State) : State :=
  if s.latched.bufLen.toNat ≠ s.latched.w.toNat * s.latched.h.toNat / 8 then raiseFault codePartialLength s
  else if s.latched.x.toNat % 8 ≠ 0 then raiseFault codePartialAlignX s
  else if s.latched.w.toNat % 8 ≠ 0 then raiseFault codePartialAlignW s
  else if s.mode ≠ .full then raiseFault codePartialModeNotFull s
  else if latchedWindow s.latched = none then raiseFault codeWindowRange s
  else advance 1 { s with mode := .quick }

/-- The PartialWindow payload `d ++ [0x28]` (R182, R186). -/
def windowPayload (a : Args) : Payload := .bytes ((latchedWindow a).getD [] ++ [Config.windowTrailer])

/-- The steps of UPDATE_PARTIAL_FRAME (R182, R186, R187). -/
def updatePartialFrameSteps (a : Args) : List SeqStep :=
  [.enterPartial, .cycle (.partialIn (.bytes [])), .cycle (.partialWindow (windowPayload a)),
   .cycle (.dataStartTransmission1 (bufComplPayload a)), .cycle (.dataStartTransmission2 (bufPayload a)), .finish]

/-- The steps of DISPLAY_FRAME (R189): the LUT family is MODE's. -/
def displayFrameSteps (src : BusySource) (mode : Family) : List SeqStep :=
  loadLuts (some mode) ++ triggerSteps src ++ [.finish]

/-- The steps of UPDATE_AND_DISPLAY_FRAME (R192). -/
def updateAndDisplayFrameSteps (src : BusySource) (bg : Color) (a : Args) : List SeqStep :=
  .enterFull :: fullPlanes bg a ++ loadLuts (some .full) ++ triggerSteps src ++ [.finish]

/-- The steps of CLEAR_FRAME (R194): plane 1 the background byte, plane 2 its complement (R195), the Full LUTs (R196). -/
def clearFrameSteps (src : BusySource) (bg : Color) : List SeqStep :=
  [.cycle (.dataStartTransmission1 (.fill (Config.bgByte bg) Config.len)),
   .cycle (.dataStartTransmission2 (.fill (~~~(Config.bgByte bg)) Config.len))] ++
  loadLuts none ++ triggerSteps src ++ [.finish]

/-- The one step of SLEEP: it completes with no event (R199). -/
def sleepSteps : List SeqStep := [.finish]

/-- SLEEP (R199): accepted in every LIFECYCLE state, then `sleepSteps`. -/
def execSleep (s : State) : Host.Outcome State Fault Refusal := .next (accept .sleep s)

/-- UPDATE_FRAME (R177): NotReady unless Ready, then `updateFrameSteps`. -/
def execUpdateFrame (s : State) : Host.Outcome State Fault Refusal := .next (accept .updateFrame s)

/-- UPDATE_PARTIAL_FRAME (R182): NotReady unless Ready, then `updatePartialFrameSteps`. -/
def execUpdatePartialFrame (s : State) : Host.Outcome State Fault Refusal := .next (accept .updatePartialFrame s)

/-- DISPLAY_FRAME (R189): NotReady unless Ready, then `displayFrameSteps`. -/
def execDisplayFrame (s : State) : Host.Outcome State Fault Refusal := .next (accept .displayFrame s)

/-- UPDATE_AND_DISPLAY_FRAME (R192): NotReady unless Ready, then `updateAndDisplayFrameSteps`. -/
def execUpdateAndDisplayFrame (s : State) : Host.Outcome State Fault Refusal :=
  .next (accept .updateAndDisplayFrame s)

/-- CLEAR_FRAME (R194): NotReady unless Ready, then `clearFrameSteps`. -/
def execClearFrame (s : State) : Host.Outcome State Fault Refusal := .next (accept .clearFrame s)

end Sys2Proof.Machine
end

