-- ==== Sys2Proof/Machine/Accessors.lean ====
section
/-! DEFINITION. The accessor operations (45_accessors.md R205 to R208): each completes in one sequencer step (R210). -/

namespace Sys2Proof.Machine

/-- `x[BG] <- color ; x[INFLIGHT] <- 0` (R205). -/
def setBackgroundStep (c : Color) (s : State) : State := { leaveOp s with bg := c }

/-- `x[RESULT] <- zext_32(x[BG]) ; x[INFLIGHT] <- 0` (R206). -/
def getBackgroundStep (s : State) : State := { leaveOp s with result := Word.ofBit (encodeColor s.bg == 1) }

/-- `x[RESULT] <- WIDTH ; x[INFLIGHT] <- 0` (R207). -/
def getWidthStep (s : State) : State := { leaveOp s with result := BitVec.ofNat 32 Config.width }

/-- `x[RESULT] <- HEIGHT ; x[INFLIGHT] <- 0` (R208). -/
def getHeightStep (s : State) : State := { leaveOp s with result := BitVec.ofNat 32 Config.height }

/-- SET_BACKGROUND (R205): accepted in every LIFECYCLE state, then its one step. -/
def execSetBackground (c : Color) (s : State) : Host.Outcome State Fault Refusal :=
  .next (accept (.setBackground c) s)

/-- GET_BACKGROUND (R206): accepted in every LIFECYCLE state, then its one step. -/
def execGetBackground (s : State) : Host.Outcome State Fault Refusal := .next (accept .getBackground s)

/-- GET_WIDTH (R207): accepted in every LIFECYCLE state, then its one step. -/
def execGetWidth (s : State) : Host.Outcome State Fault Refusal := .next (accept .getWidth s)

/-- GET_HEIGHT (R208): accepted in every LIFECYCLE state, then its one step. -/
def execGetHeight (s : State) : Host.Outcome State Fault Refusal := .next (accept .getHeight s)

end Sys2Proof.Machine
end

