-- ==== Sys2Proof/Machine/Reserved.lean ====
section
/-! DEFINITION. The reserved operation codes (30_encoding.md R88): a CTRL write of one raises IllegalOp at acceptance. -/

namespace Sys2Proof.Machine

/-- OP 0x0 (R88, R244). -/
def execReserved0 (s : State) : Host.Outcome State Fault Refusal := .next (accept .reserved0 s)

/-- OP 0xF (R88, R244). -/
def execReservedF (s : State) : Host.Outcome State Fault Refusal := .next (accept .reservedF s)

end Sys2Proof.Machine
end

