-- ==== Sys2Proof/Machine/PanelCommands.lean ====
section
/-! DEFINITION. The panel commands (46_panel_commands.md): the meaning of each is its command cycle (40_framer.md R111), of
which this is the first event; the framer's `cycleStep` runs the rest, one event a step (10_state.md R32). -/

namespace Sys2Proof.Machine

/-- PowerSetting (R215): INIT step 2. -/
def execPowerSetting (p : Payload) (s : State) : Host.Outcome State Fault Refusal :=
  beginCycle .powerSetting p s

/-- BoosterSoftStart (R216): INIT step 3. -/
def execBoosterSoftStart (p : Payload) (s : State) : Host.Outcome State Fault Refusal :=
  beginCycle .boosterSoftStart p s

/-- PowerOn (R217): INIT step 4. -/
def execPowerOn (p : Payload) (s : State) : Host.Outcome State Fault Refusal :=
  beginCycle .powerOn p s

/-- PanelSetting (R218): INIT step 5. -/
def execPanelSetting (p : Payload) (s : State) : Host.Outcome State Fault Refusal :=
  beginCycle .panelSetting p s

/-- PllControl (R219): INIT step 6. -/
def execPllControl (p : Payload) (s : State) : Host.Outcome State Fault Refusal :=
  beginCycle .pllControl p s

/-- ResolutionSetting (R220): INIT step 7. -/
def execResolutionSetting (p : Payload) (s : State) : Host.Outcome State Fault Refusal :=
  beginCycle .resolutionSetting p s

/-- VcmDcSetting (R221): INIT step 8 and the Quick LUT load. -/
def execVcmDcSetting (p : Payload) (s : State) : Host.Outcome State Fault Refusal :=
  beginCycle .vcmDcSetting p s

/-- VcomAndDataIntervalSetting (R222): every LUT load. -/
def execVcomAndDataIntervalSetting (p : Payload) (s : State) : Host.Outcome State Fault Refusal :=
  beginCycle .vcomAndDataIntervalSetting p s

/-- LutVcom (R223): LUT load, second. -/
def execLutVcom (p : Payload) (s : State) : Host.Outcome State Fault Refusal :=
  beginCycle .lutVcom p s

/-- LutWW (R224): LUT load, third. -/
def execLutWW (p : Payload) (s : State) : Host.Outcome State Fault Refusal :=
  beginCycle .lutWW p s

/-- LutBW (R225): LUT load, fourth. -/
def execLutBW (p : Payload) (s : State) : Host.Outcome State Fault Refusal :=
  beginCycle .lutBW p s

/-- LutWB (R226): LUT load, fifth. -/
def execLutWB (p : Payload) (s : State) : Host.Outcome State Fault Refusal :=
  beginCycle .lutWB p s

/-- LutBB (R227): LUT load, sixth. -/
def execLutBB (p : Payload) (s : State) : Host.Outcome State Fault Refusal :=
  beginCycle .lutBB p s

/-- DataStartTransmission1 (R228): plane 1. -/
def execDataStartTransmission1 (p : Payload) (s : State) : Host.Outcome State Fault Refusal :=
  beginCycle .dataStartTransmission1 p s

/-- DataStartTransmission2 (R229): plane 2. -/
def execDataStartTransmission2 (p : Payload) (s : State) : Host.Outcome State Fault Refusal :=
  beginCycle .dataStartTransmission2 p s

/-- DisplayRefresh (R230): the refresh trigger. -/
def execDisplayRefresh (p : Payload) (s : State) : Host.Outcome State Fault Refusal :=
  beginCycle .displayRefresh p s

/-- PartialIn (R231): UPDATE_PARTIAL_FRAME, first cycle. -/
def execPartialIn (p : Payload) (s : State) : Host.Outcome State Fault Refusal :=
  beginCycle .partialIn p s

/-- PartialWindow (R232): UPDATE_PARTIAL_FRAME, second cycle. -/
def execPartialWindow (p : Payload) (s : State) : Host.Outcome State Fault Refusal :=
  beginCycle .partialWindow p s

/-- GetStatus (R233): the busy poll in StatusQuery mode. -/
def execGetStatus (p : Payload) (s : State) : Host.Outcome State Fault Refusal :=
  beginCycle .getStatus p s

/-- DeepSleep (R234): no operation emits it; `Cycle` is defined for it all the same (log 29). -/
def execDeepSleep (p : Payload) (s : State) : Host.Outcome State Fault Refusal :=
  beginCycle .deepSleep p s

/-- ForceTemperature (R235): no operation emits it; `Cycle` is defined for it all the same (log 29). -/
def execForceTemperature (p : Payload) (s : State) : Host.Outcome State Fault Refusal :=
  beginCycle .forceTemperature p s

end Sys2Proof.Machine
end

