-- ==== Sys2Proof/Machine/Dispatch.lean ====
section
/-! DEFINITION. One arm per constructor of Instr: the host operations' acceptance, the panel commands' cycles. -/

namespace Sys2Proof.Machine

def exec (i : Instr) (s : State) : Host.Outcome State Fault Refusal :=
  match i with
  | .reserved0 => Sys2Proof.Machine.execReserved0 s
  | .init => Sys2Proof.Machine.execInit s
  | .sleep => Sys2Proof.Machine.execSleep s
  | .updateFrame => Sys2Proof.Machine.execUpdateFrame s
  | .updatePartialFrame => Sys2Proof.Machine.execUpdatePartialFrame s
  | .displayFrame => Sys2Proof.Machine.execDisplayFrame s
  | .updateAndDisplayFrame => Sys2Proof.Machine.execUpdateAndDisplayFrame s
  | .wakeUp => Sys2Proof.Machine.execWakeUp s
  | .clearFrame => Sys2Proof.Machine.execClearFrame s
  | .setBackground c => Sys2Proof.Machine.execSetBackground c s
  | .getBackground => Sys2Proof.Machine.execGetBackground s
  | .getWidth => Sys2Proof.Machine.execGetWidth s
  | .getHeight => Sys2Proof.Machine.execGetHeight s
  | .setLut sel => Sys2Proof.Machine.execSetLut sel s
  | .waitUntilIdle => Sys2Proof.Machine.execWaitUntilIdle s
  | .reservedF => Sys2Proof.Machine.execReservedF s
  | .powerSetting p => Sys2Proof.Machine.execPowerSetting p s
  | .boosterSoftStart p => Sys2Proof.Machine.execBoosterSoftStart p s
  | .powerOn p => Sys2Proof.Machine.execPowerOn p s
  | .panelSetting p => Sys2Proof.Machine.execPanelSetting p s
  | .pllControl p => Sys2Proof.Machine.execPllControl p s
  | .resolutionSetting p => Sys2Proof.Machine.execResolutionSetting p s
  | .vcmDcSetting p => Sys2Proof.Machine.execVcmDcSetting p s
  | .vcomAndDataIntervalSetting p => Sys2Proof.Machine.execVcomAndDataIntervalSetting p s
  | .lutVcom p => Sys2Proof.Machine.execLutVcom p s
  | .lutWW p => Sys2Proof.Machine.execLutWW p s
  | .lutBW p => Sys2Proof.Machine.execLutBW p s
  | .lutWB p => Sys2Proof.Machine.execLutWB p s
  | .lutBB p => Sys2Proof.Machine.execLutBB p s
  | .dataStartTransmission1 p => Sys2Proof.Machine.execDataStartTransmission1 p s
  | .dataStartTransmission2 p => Sys2Proof.Machine.execDataStartTransmission2 p s
  | .displayRefresh p => Sys2Proof.Machine.execDisplayRefresh p s
  | .partialIn p => Sys2Proof.Machine.execPartialIn p s
  | .partialWindow p => Sys2Proof.Machine.execPartialWindow p s
  | .getStatus p => Sys2Proof.Machine.execGetStatus p s
  | .deepSleep p => Sys2Proof.Machine.execDeepSleep p s
  | .forceTemperature p => Sys2Proof.Machine.execForceTemperature p s

end Sys2Proof.Machine
end

