-- ==== Sys2Proof/Machine/Sequencer.lean ====
section
/-! DEFINITION. The sequencer (10_state.md R31, R32), the host port (20_memory.md R68 to R70) and the moves of the five
agents (00_scope.md R11). A step list's panel commands and the host's CTRL writes both run through `exec`. -/

namespace Sys2Proof.Machine

/-! ### The step lists -/

/-- The fixed step list of an operation (R31). Only DISPLAY_FRAME's depends on MODE (44_refresh.md R189); the latched
operands and BG fill in payloads. A panel command's list is its own cycle, which no host operation is (log 28). -/
def stepList (op : Instr) (s : State) : List SeqStep :=
  match op with
  | .reserved0 => []
  | .init => initSteps s.cfg.busySource
  | .sleep => sleepSteps
  | .updateFrame => updateFrameSteps s.bg s.latched
  | .updatePartialFrame => updatePartialFrameSteps s.latched
  | .displayFrame => displayFrameSteps s.cfg.busySource s.mode
  | .updateAndDisplayFrame => updateAndDisplayFrameSteps s.cfg.busySource s.bg s.latched
  | .wakeUp => wakeUpSteps s.cfg.busySource
  | .clearFrame => clearFrameSteps s.cfg.busySource s.bg
  | .setBackground c => [.setBackground c]
  | .getBackground => [.getBackground]
  | .getWidth => [.getWidth]
  | .getHeight => [.getHeight]
  | .setLut sel => setLutSteps sel
  | .waitUntilIdle => waitUntilIdleSteps s.cfg.busySource
  | .reservedF => []
  | .powerSetting p => [.cycle (.powerSetting p), .finish]
  | .boosterSoftStart p => [.cycle (.boosterSoftStart p), .finish]
  | .powerOn p => [.cycle (.powerOn p), .finish]
  | .panelSetting p => [.cycle (.panelSetting p), .finish]
  | .pllControl p => [.cycle (.pllControl p), .finish]
  | .resolutionSetting p => [.cycle (.resolutionSetting p), .finish]
  | .vcmDcSetting p => [.cycle (.vcmDcSetting p), .finish]
  | .vcomAndDataIntervalSetting p => [.cycle (.vcomAndDataIntervalSetting p), .finish]
  | .lutVcom p => [.cycle (.lutVcom p), .finish]
  | .lutWW p => [.cycle (.lutWW p), .finish]
  | .lutBW p => [.cycle (.lutBW p), .finish]
  | .lutWB p => [.cycle (.lutWB p), .finish]
  | .lutBB p => [.cycle (.lutBB p), .finish]
  | .dataStartTransmission1 p => [.cycle (.dataStartTransmission1 p), .finish]
  | .dataStartTransmission2 p => [.cycle (.dataStartTransmission2 p), .finish]
  | .displayRefresh p => [.cycle (.displayRefresh p), .finish]
  | .partialIn p => [.cycle (.partialIn p), .finish]
  | .partialWindow p => [.cycle (.partialWindow p), .finish]
  | .getStatus p => [.cycle (.getStatus p), .finish]
  | .deepSleep p => [.cycle (.deepSleep p), .finish]
  | .forceTemperature p => [.cycle (.forceTemperature p), .finish]

/-- The step SEQ stands at (R31). -/
def seqFetch (s : State) : Option SeqStep :=
  match s.seqOp with
  | none => none
  | some op => (stepList op s)[s.seqStep]?

/-! ### The sequencer's move -/

/-- One step of a step list. -/
def runSeqStep (st : SeqStep) (d : Draw) (s : State) : Host.Outcome State Fault Refusal :=
  match st with
  | .rst v => .next (advance 1 (driveRst v s))
  | .delay t => .next (advance 1 (startDelay t s))
  | .cycle i => exec i s
  | .sample => .next (sampleStep d s)
  | .statusRead => .next (statusReadStep d s)
  | .poll back => .next (pollStep back s)
  | .enterFull => .next (enterFullStep s)
  | .enterPartial => .next (enterPartialStep s)
  | .setBackground c => .next (setBackgroundStep c s)
  | .getBackground => .next (getBackgroundStep s)
  | .getWidth => .next (getWidthStep s)
  | .getHeight => .next (getHeightStep s)
  | .finishInit => .next (finishInitStep s)
  | .finish => .next (leaveOp s)

/-- The sequencer's move: nothing while no operation is in flight or a delay runs (R136, log 16); else the cycle in
progress goes on; else the step SEQ stands at runs. -/
def sequencerMove (d : Draw) (s : State) : Host.Outcome State Fault Refusal :=
  if s.inflight = false then .next s
  else match s.timer with
    | some _ => .next s
    | none =>
      match s.cyc with
      | some c => .next (cycleStep c d s)
      | none =>
        match seqFetch s with
        | some st => runSeqStep st d s
        | none => .fault .sequencerOffList

/-! ### The host port -/

/-- What a host read of an offset returns (10_state.md R49): CTRL and reserved offsets read 0. -/
def readPort (off : Nat) (s : State) : Word :=
  match HostReg.ofOffset off with
  | some .ctrl => 0#32
  | some .status => statusWord s
  | some .result => s.result
  | some .errCode => s.errCode
  | some .bufBase => s.args.bufBase
  | some .bufLen => s.args.bufLen
  | some .x => s.args.x
  | some .y => s.args.y
  | some .w => s.args.w
  | some .h => s.args.h
  | none => 0#32

/-- A host write (R49): CTRL starts an operation (30_encoding.md R98), the argument registers take the value, the other
offsets ignore it. -/
def writePort (off : Nat) (v : Word) (s : State) : Host.Outcome State Fault Refusal :=
  match HostReg.ofOffset off with
  | some .ctrl => exec (decodeCtrl v) s
  | some .status => .next s
  | some .result => .next s
  | some .errCode => .next s
  | some .bufBase => .next { s with args := { s.args with bufBase := v } }
  | some .bufLen => .next { s with args := { s.args with bufLen := v } }
  | some .x => .next { s with args := { s.args with x := v } }
  | some .y => .next { s with args := { s.args with y := v } }
  | some .w => .next { s with args := { s.args with w := v } }
  | some .h => .next { s with args := { s.args with h := v } }
  | none => .next s

/-- One line of the host's program (30_encoding.md R96, R97): `poll` reads STATUS and stays while INFLIGHT is 1. -/
def runHostLine (l : HostLine) (rest : List HostLine) (s : State) : Host.Outcome State Fault Refusal :=
  match l with
  | .wr a v =>
    if a.Admitted then writePort a.offset v { s with prog := rest }
    else .refused (.hostAccess a.width a.offset)
  | .rd a =>
    if a.Admitted then .next { s with prog := rest, rdata := readPort a.offset s }
    else .refused (.hostAccess a.width a.offset)
  | .poll =>
    .next { s with prog := (if s.inflight then s.prog else rest), rdata := readPort HostReg.status.offset s }

/-- The host's move: the next line of its program, if any. -/
def hostMove (s : State) : Host.Outcome State Fault Refusal :=
  match s.prog with
  | [] => .next s
  | l :: rest => runHostLine l rest s

/-! ### Moves -/

/-- The delay timer ends the running delay (41_busy_sync.md R136). -/
def timerMove (s : State) : State := { s with timer := none }

/-- One move of one agent. -/
def applyMove (m : Move) (s : State) : Host.Outcome State Fault Refusal :=
  match m with
  | .host => hostMove s
  | .sequencer d => sequencerMove d s
  | .timer => .next (timerMove s)
  | .hostStore a b => .next (hostStore a b s)
  | .blkRst => .next (blockReset s)

/-- Which move comes next, and the state with it taken: the head of the script, and after its end a free move (log 1). -/
def nextMove (s : State) : Move × State :=
  match s.script with
  | m :: rest => (m, { s with script := rest })
  | [] => (Config.freeMove s.tick, { s with tick := s.tick + 1 })

/-! ### Placing an instruction -/

/-- A draw in which nothing goes wrong: the transport answers Ok, the controller is idle. -/
def quietDraw : Draw :=
  { transport := .ok, busy := Config.busyIdleLevel, status := 0#8, mem := 0#8, split := false }

/-- The host is about to write `v` to CTRL: the line heads its program, and the host moves next. -/
def placeCtrlWrite (v : Word) (s : State) : State :=
  { s with prog := .wr HostReg.ctrl.access v :: s.prog, script := .host :: s.script }

/-- The sequencer is about to run the panel command `i` alone (log 28). -/
def placePanelCommand (i : Instr) (s : State) : State :=
  { s with
    seqOp := some i, seqStep := 0, inflight := true, cyc := none, timer := none,
    script := .sequencer quietDraw :: s.script }

/-- Place a decoded instruction where the next step runs it: a panel command at the sequencer, a CTRL word, as its bits
stand, at the host port. -/
def placeTableWord (nbits w : Nat) (s : State) : State :=
  match decodeTableWord nbits w with
  | none => s
  | some i =>
    match i.cycle? with
    | some _ => placePanelCommand i s
    | none => placeCtrlWrite (BitVec.ofNat 32 (w % 2 ^ nbits)) s

end Sys2Proof.Machine
end

