-- ==== Sys2Proof/Machine/Step.lean ====
section
/-! DEFINITION. One step of the machine: the agent whose turn it is makes its move. -/

namespace Sys2Proof.Machine

/-- One step (00_scope.md R11, 60_exceptions.md R257): the next move is taken from the state and made. -/
def step (s : State) : Host.Outcome State Fault Refusal := applyMove (nextMove s).1 (nextMove s).2

/-- `s` with the table word's instruction placed so that the very next step runs it (log 28). -/
def State.withFetchWord (s : State) (nbits w : Nat) : State := placeTableWord nbits w s

end Sys2Proof.Machine
end

