-- ==== Sys2Proof/Safety.lean ====
section
/-! DEFINITION. The terms in which claims are stated: runs under given draws and under a quiet environment, the transcripts the
rules write out, the premises of a launch (70_reset_and_hazards.md R289), and the invariant of the machine. -/

namespace Sys2Proof.Machine

/-! ### Runs -/

/-- The sequencer's moves alone, one per draw, stopping at the first fault or refusal. -/
def runDraws : List Draw → State → Host.Outcome State Fault Refusal
  | [], s => .next s
  | d :: ds, s =>
    match sequencerMove d s with
    | .next t => runDraws ds t
    | .fault r => .fault r
    | .refused r => .refused r

/-- Any agents' moves in turn, stopping at the first fault or refusal. -/
def runMoves : List Move → State → Host.Outcome State Fault Refusal
  | [], s => .next s
  | m :: ms, s =>
    match applyMove m s with
    | .next t => runMoves ms t
    | .fault r => .fault r
    | .refused r => .refused r

/-- The undisturbed environment's move: the timer if a delay runs, else the sequencer, with an Ok transport and an idle
controller. -/
def quietTurn (s : State) : Move := if s.timer.isSome then .timer else .sequencer quietDraw

/-- `n` undisturbed moves. -/
def quietRun : Nat → State → Host.Outcome State Fault Refusal
  | 0, s => .next s
  | n + 1, s =>
    match applyMove (quietTurn s) s with
    | .next t => quietRun n t
    | .fault r => .fault r
    | .refused r => .refused r

/-- A cycle in progress run to its end: draws after the end are not used. -/
def runCycle : List Draw → State → State
  | [], s => s
  | d :: ds, s =>
    match s.cyc with
    | none => s
    | some c => runCycle ds (cycleStep c d s)

/-- The controller answers busy. -/
def busyDraw : Draw := { quietDraw with busy := !Config.busyIdleLevel }

/-- `n` turns of the busy loop by the pin: a busy sample, the poll delay, its end (41_busy_sync.md R131). -/
def busyMoves : Nat → List Move
  | 0 => []
  | n + 1 => [.sequencer busyDraw, .sequencer quietDraw, .timer] ++ busyMoves n

/-- Moves of the sequencer and the timer alone, with no transport error. -/
def Undisturbed (ms : List Move) : Prop := ∀ m ∈ ms, m = .timer ∨ ∃ d : Draw, m = .sequencer d ∧ d.transport = .ok

/-- Some undisturbed run leads from `s` to `t`. -/
def LeadsTo (s t : State) : Prop := ∃ ms, Undisturbed ms ∧ runMoves ms s = .next t

/-! ### Transcripts -/

/-- The byte-level events of R24. -/
def Event.isByteLevel : Event → Bool
  | .cs _ | .dc _ => false
  | .rst _ | .delay _ | .cmd _ | .data _ | .sample _ | .statusRead _ => true

/-- The command byte of an event, if it is one. -/
def Event.commandByte? : Event → Option Byte
  | .cmd b => some b
  | .cs _ | .dc _ | .rst _ | .delay _ | .data _ | .sample _ | .statusRead _ => none

/-- A transcript at byte level (00_scope.md R24). -/
def byteLevel (tr : List Event) : List Event := tr.filter Event.isByteLevel

/-- `CMD(CODE(c)) DATA(p0) ... DATA(pn-1)` (30_encoding.md R90). -/
def cycleBytes (c : PanelCommand) (bs : List Byte) : List Event := .cmd (Config.code c) :: bs.map .data

/-- The pin-level form of `Cycle(c, P)` under Burst (40_framer.md R114). -/
def burstEvents (c : PanelCommand) (bs : List Byte) : List Event :=
  [.cs false, .dc Config.dcCmdLevel, .cmd (Config.code c), .dc Config.dcDataLevel] ++ bs.map .data ++ [.cs true]

/-- A standalone data write whose payload goes out in the given chunks, one transport call each (R115). -/
def dataOnlyEvents (chunks : List (List Byte)) : List Event :=
  .dc Config.dcDataLevel :: chunks.flatMap fun w => [.cs false] ++ w.map .data ++ [.cs true]

/-- The pin-level form of `Cycle(c, P)` under PerWrite with the payload in the given chunks (R115). -/
def perWriteEvents (c : PanelCommand) (chunks : List (List Byte)) : List Event :=
  [.dc Config.dcCmdLevel, .cs false, .cmd (Config.code c), .cs true] ++ dataOnlyEvents chunks

/-- The transcript of `WaitIdle()` by the pin after `n` busy samples (41_busy_sync.md R131). -/
def waitEvents : Nat → List Event
  | 0 => [.sample true]
  | n + 1 => .sample false :: .delay Config.tPoll :: waitEvents n

/-- The cycles of `LoadLuts` for a family (43_lut.md R162, R163). -/
def lutBytes (f : Family) : List (PanelCommand × List Byte) :=
  (match f with
    | .quick => [(.vcmDcSetting, [Config.quickVdcOverride])]
    | .full => []) ++
  [(.vcomAndDataIntervalSetting, [Config.vcomDataInterval]), (.lutVcom, Config.lut f .vcom),
   (.lutWW, Config.lut f .ww), (.lutBW, Config.lut f .bw), (.lutWB, Config.lut f .wb), (.lutBB, Config.lut f .bb)]

/-- The transcript of `LoadLuts` for a family (43_lut.md R162), in Burst. -/
def lutEvents (f : Family) : List Event := (lutBytes f).flatMap fun c => burstEvents c.1 c.2

/-- The transcript of `Trigger()` (44_refresh.md R190) with `n` busy samples after the settle delay. -/
def triggerEvents (n : Nat) : List Event :=
  burstEvents .displayRefresh [] ++ [.delay Config.tSettle] ++ waitEvents n

/-- The transcript of INIT (42_init.md R146) with `n` busy samples after PowerOn and `m` at the end: `INITSEQ(n, m)` of
95_test_vectors.md with the pin events of R114. -/
def initEvents (n m : Nat) : List Event :=
  [.rst false, .delay Config.tRstLow, .rst true, .delay Config.tRstHigh] ++
  burstEvents .powerSetting Config.pwrPayload.toList ++
  burstEvents .boosterSoftStart Config.boostPayload.toList ++
  burstEvents .powerOn [] ++ waitEvents n ++
  burstEvents .panelSetting Config.psrPayload.toList ++
  burstEvents .pllControl Config.pllPayload.toList ++
  burstEvents .resolutionSetting [0x68#8, 0x00#8, 0xD4#8] ++
  burstEvents .vcmDcSetting Config.vdcPayload.toList ++ waitEvents m

/-! ### Payloads and buffers -/

/-- The record of the panel after a whole cycle (10_state.md R46). -/
def PanelRecord.afterCycle (c : PanelCommand) (bs : List Byte) (r : PanelRecord) : PanelRecord :=
  bs.foldl (fun r b => r.data b) (r.command c)

/-- The record of the panel after events on the bus. -/
def PanelRecord.afterEvents (es : List Event) (r : PanelRecord) : PanelRecord :=
  es.foldl (fun r e =>
    match e with
    | .cmd b => (match commandOf b with
      | some c => r.command c
      | none => r)
    | .data b => r.data b
    | .cs _ | .dc _ | .rst _ | .delay _ | .sample _ | .statusRead _ => r) r

/-- `bs` are the bytes the payload yields in this state, whatever the draws bring. -/
def Yields (s : State) (p : Payload) (bs : List Byte) : Prop :=
  p.length = bs.length ∧ ∀ (i : Nat) (d : Draw), i < bs.length → payloadByte s d p i = bs[i]?

/-- Host memory holds `bs` from the address on: admitted, placed by the host or settled by a read, and no host duty broken
(20_memory.md R60 to R63). -/
def HoldsBuffer (s : State) (base : Nat) (bs : List Byte) : Prop :=
  s.tainted = [] ∧ ∀ i : Nat, i < bs.length → admits s (base + i) = true ∧ hostByte? s (base + i) = bs[i]?

/-! ### Outcomes and premises -/

/-- The transport has answered `Err(e)` to the cycle in progress: at this move, the byte not having gone out, or at the
sequencer's step before it, the byte having gone out (40_framer.md R117, R118). -/
def TransportFails (m : Move) (s : State) (e : Nat) : Prop :=
  ∃ d, m = .sequencer d ∧ (d.transport = .err e false ∨ ∃ c, s.cyc = some c ∧ c.phase = .failed e)

/-- The block can accept an operation: not halted, none in flight. -/
abbrev Accepting (s : State) : Prop := s.fault = false ∧ s.inflight = false

/-- The framing and the busy source of this hardware (00_scope.md R15, R21). -/
abbrev ThisHardware (s : State) : Prop := s.cfg.framing = .burst ∧ s.cfg.busySource = .pin

/-! ### The invariant -/

/-- The six argument registers (10_state.md R30). -/
def argRegs : List HostReg := [.bufBase, .bufLen, .x, .y, .w, .h]

/-- Every byte of the window descriptor lies in 0..255 (30_encoding.md R93). -/
abbrev WindowFits (x y w h : Nat) : Prop :=
  x ≤ 255 ∧ 1 ≤ x + w ∧ x + w ≤ 256 ∧ y / 256 ≤ 255 ∧ (y + h) / 256 ≤ 255 ∧ 1 ≤ (y + h) % 256

/-- An operation the host can start: a CTRL word that names one (30_encoding.md R82). -/
def isHostOp (i : Instr) : Bool := i.cycle?.isNone && !illegalOp i

/-- CS_N while a cycle in progress stands at this phase (R114, R115): true where CS is high. -/
def Phase.csHighNow (fr : Framing) : Phase → Bool
  | .dcCmd _ => false
  | .csCmd _ => true
  | .cmdByte _ => false
  | .csCmdHigh => false
  | .dcData => fr == .perWrite
  | .csData => true
  | .data => false
  | .csHigh => false
  | .failed _ => false

/-- Phases that belong to the framing. -/
def Phase.belongs (fr : Framing) : Phase → Bool
  | .dcCmd _ => fr == .burst
  | .csCmd _ | .csCmdHigh | .csData => fr == .perWrite
  | .cmdByte _ | .dcData | .data | .csHigh | .failed _ => true

/-- Phases after which DC stands at the data level. -/
def Phase.dcIsData : Phase → Bool
  | .csData | .data | .csHigh => true
  | .dcCmd _ | .csCmd _ | .cmdByte _ | .csCmdHigh | .dcData | .failed _ => false

/-- Phases in which DC stands at the command level. -/
def Phase.dcIsCmd : Phase → Bool
  | .csCmd _ | .cmdByte _ => true
  | .dcCmd _ | .csCmdHigh | .dcData | .csData | .data | .csHigh | .failed _ => false

/-- How many bytes have gone out, by phase: none before the payload, fewer than all before a data byte. -/
def Phase.sentFits (n len : Nat) : Phase → Bool
  | .dcCmd _ | .csCmd _ | .cmdByte _ | .csCmdHigh | .dcData => n == 0
  | .csData | .data => decide (n < len)
  | .csHigh | .failed _ => decide (n ≤ len)

/-- A Burst cycle raises CS only at its end. -/
def Cycle.burstWhole (c : Cycle) : Bool :=
  match c.framing, c.phase with
  | .burst, .csHigh => c.sent == c.payload.length
  | _, _ => true

/-- A cycle in progress agrees with the pins (R114, R115). -/
abbrev CycleInv (s : State) (c : Cycle) : Prop :=
  c.phase.belongs c.framing = true ∧ s.csN = c.phase.csHighNow c.framing ∧
  (c.phase.dcIsData = true → s.dc = Config.dcDataLevel) ∧
  c.phase.sentFits c.sent c.payload.length = true ∧ c.burstWhole = true ∧
  (c.phase.dcIsCmd = true → s.dc = Config.dcCmdLevel)

/-- The operations whose list begins with the reset pulse. -/
def pulsesReset : Instr → Bool
  | .init | .wakeUp => true
  | _ => false

/-- The command a cycle in progress has still to send, if it has not sent it. -/
def Phase.command? : Phase → Option PanelCommand
  | .dcCmd c | .csCmd c | .cmdByte c => some c
  | .csCmdHigh | .dcData | .csData | .data | .csHigh | .failed _ => none

/-- What holds of the operation in flight and its position (R31, R32): it is a host operation at a step of its list, and
a cycle in progress is the one the list has there. -/
def SeqInv (s : State) (op : Instr) : Prop :=
  isHostOp op = true ∧ (needsReady op = true → s.lifecycle = .ready) ∧ s.err = false ∧
  s.seqStep < (stepList op s).length ∧
  (∀ c, s.cyc = some c → ∃ i k, (stepList op s)[s.seqStep]? = some (.cycle i) ∧ i.cycle? = some (k, c.payload) ∧
    (c.phase.command? = none ∨ c.phase.command? = some k))

/-- The bytes that reads have settled have the canonical form of memory, and none of them stands where the host has placed
one (log 17). -/
abbrev DrawnInv (s : State) : Prop :=
  Memory.wf s.drawn = true ∧ ∀ a b, Memory.read? s.mem a = some b → Memory.read? s.drawn a = none

/-- The invariant of the machine: what holds in every state a run reaches. -/
structure Inv (s : State) : Prop where
  /-- Host memory has its canonical form. -/
  memWf : Memory.wf s.mem = true
  /-- So have the bytes that reads have settled, apart from it. -/
  drawnInv : DrawnInv s
  /-- FAULT and FAULT_CODE are set together (10_state.md R39). -/
  faultCode : s.fault = true ↔ s.faultCode ≠ 0#4
  /-- Codes 10 to 15 are never produced (60_exceptions.md R241). -/
  faultCodeLe : s.faultCode.toNat ≤ 9
  /-- A halted block runs no operation (R253). -/
  halted : s.fault = true → s.inflight = false
  /-- INFLIGHT says that SEQ holds an operation (R31, R34). -/
  inflight : s.inflight = s.seqOp.isSome
  /-- Between operations the sequencer, the framer and the timer are empty. -/
  idle : s.inflight = false → s.seqStep = 0 ∧ s.cyc = none ∧ s.timer = none ∧ s.tainted = []
  /-- Idle pin levels (40_framer.md R123); after a Reentrant fault only CS_N is driven (60_exceptions.md R248). -/
  pins : s.cyc = none → s.csN = true ∧ (s.fault = false → s.dc = Config.dcDataLevel)
  /-- An error leaves LIFECYCLE Indeterminate until the next accepted operation (R250). -/
  err : s.err = true → s.lifecycle = .indeterminate
  /-- The operation in flight is a host operation at a step of its list. -/
  seq : ∀ op, s.seqOp = some op → SeqInv s op
  /-- A cycle in progress agrees with the pins, and no delay runs inside it (R119). -/
  cycle : ∀ c, s.cyc = some c → CycleInv s c ∧ s.timer = none
  /-- RST_N is low only inside the reset pulse (42_init.md R147), or after a Reentrant fault inside it. -/
  rst : s.rstN = false → s.fault = true ∨
    ∃ op, s.seqOp = some op ∧ pulsesReset op = true ∧ (s.seqStep = 1 ∨ s.seqStep = 2)

end Sys2Proof.Machine
end

