-- ==== Sys2Proof/Certificates/Slice0/Obligations.lean ====
section
/-! DEFINITION. The statements for the provers, family by family. Where a statement holds only in states a run can reach, it
takes the invariant `Inv` as a premise; `Inv` is stated of reset and of every step. -/

section

open Sys2Proof Sys2Proof.Machine

/-! ### Encoding -/

/-- The OP column of R82, the LUTSEL and COLOR codes, and words of 95_test_vectors.md V-AC-6 and V-FT-2; of the panel
commands, the two bytes the source fixes. -/
def Obligations.DecodeSampleWords : Prop :=
  (decodeCtrl 0x00000000#32 = .reserved0 ∧ decodeCtrl 0x00000001#32 = .init ∧ decodeCtrl 0x00000002#32 = .sleep ∧
    decodeCtrl 0x00000003#32 = .updateFrame ∧ decodeCtrl 0x00000004#32 = .updatePartialFrame ∧
    decodeCtrl 0x00000005#32 = .displayFrame ∧ decodeCtrl 0x00000006#32 = .updateAndDisplayFrame ∧
    decodeCtrl 0x00000007#32 = .wakeUp ∧ decodeCtrl 0x00000008#32 = .clearFrame ∧
    decodeCtrl 0x00000009#32 = .setBackground .black ∧ decodeCtrl 0x00000109#32 = .setBackground .white ∧
    decodeCtrl 0x0000000A#32 = .getBackground ∧ decodeCtrl 0x0000000B#32 = .getWidth ∧
    decodeCtrl 0x0000000C#32 = .getHeight ∧ decodeCtrl 0x0000000E#32 = .waitUntilIdle ∧
    decodeCtrl 0x0000000F#32 = .reservedF) ∧
  (decodeCtrl 0x0000000D#32 = .setLut .noOverride ∧ decodeCtrl 0x0000001D#32 = .setLut .full ∧
    decodeCtrl 0x0000002D#32 = .setLut .quick ∧ decodeCtrl 0x0000003D#32 = .setLut .reserved ∧
    decodeCtrl 0xFFFFFF09#32 = .setBackground .white ∧ decodeCtrl 0xFFFFFE09#32 = .setBackground .black ∧
    decodeCtrl 0x00000010#32 = .reserved0) ∧
  (∀ p0 p1 p2 p3 p4 : Byte,
    decode (.cycle [0x00#8, p0, p1, p2, p3, p4]) = .ok (.powerSetting (.bytes [p0, p1, p2, p3, p4]))) ∧
  decode (.cycle [0xE5#8]) = .ok (.forceTemperature (.bytes [])) ∧ decode (.cycle []) = .error .emptyCycle

/-- Tier 3: decoding what the encoder writes gives the instruction back, with every operand at every value: every CTRL
word, and every command cycle whose bytes do not depend on host memory, for every admissible `CODE`. -/
def Obligations.EncodeDecodeAgree : Prop :=
  (∀ i : Instr, i.cycle? = none → ∃ v, encode i = some (.ctrl v) ∧ decode (.ctrl v) = .ok i) ∧
  (∀ (c : PanelCommand) (p : Payload) (bs : List Byte), p.static? = some bs →
    encode (.ofCycle c p) = some (.cycle (Config.code c :: bs)) ∧
    decode (.cycle (Config.code c :: bs)) = .ok (.ofCycle c (.bytes bs)))

/-- R81: a decoder reads OP, and LUTSEL or COLOR only where OP asks for it: encoding again what was decoded gives the word
with every unread bit clear. -/
def Obligations.CtrlWordFields : Prop :=
  ∀ v : Word, encode (decodeCtrl v) = some (.ctrl (v &&&
    (if v.extractLsb' 0 4 = 0xD#4 then 0x0000003F#32
      else if v.extractLsb' 0 4 = 0x9#4 then 0x0000010F#32 else 0x0000000F#32)))

/-- R89: two words with the same OP, and the same LUTSEL if it is SET_LUT's and the same COLOR if it is
SET_BACKGROUND's, decode alike, whatever their other bits. -/
def Obligations.ReservedBitsIgnored : Prop :=
  ∀ v v' : Word, v.extractLsb' 0 4 = v'.extractLsb' 0 4 →
    (v.extractLsb' 0 4 = 0xD#4 → v.extractLsb' 4 2 = v'.extractLsb' 4 2) →
    (v.extractLsb' 0 4 = 0x9#4 → v.getLsbD 8 = v'.getLsbD 8) → decodeCtrl v = decodeCtrl v'

/-- R237: `CODE` is injective over the 21 commands and has the two fixed bytes. -/
def Obligations.CodeConstraints : Prop :=
  (∀ c c' : PanelCommand, Config.code c = Config.code c' → c = c') ∧
  Config.code .powerSetting = 0x00#8 ∧ Config.code .forceTemperature = 0xE5#8

/-- R93: the seven bytes of the window descriptor over unbounded integers, with `256*d4 + d5 = Y + H - 1`; where one of
them is no byte there is no descriptor, and the operation, its other checks passed, raises WindowRange with no event. -/
def Obligations.WindowDescriptor : Prop :=
  ∀ a : Args,
    (WindowFits a.x.toNat a.y.toNat a.w.toNat a.h.toNat →
      ∃ d0 d1 d2 d3 d4 d5 : Byte, windowPayload a = .bytes [d0, d1, d2, d3, d4, d5, 0x28#8] ∧
        d0.toNat = a.x.toNat ∧ d1.toNat + 1 = a.x.toNat + a.w.toNat ∧ d2.toNat = a.y.toNat / 256 ∧
        d3.toNat = a.y.toNat % 256 ∧ d4.toNat = (a.y.toNat + a.h.toNat) / 256 ∧
        d5.toNat + 1 = (a.y.toNat + a.h.toNat) % 256 ∧ 256 * d4.toNat + d5.toNat + 1 = a.y.toNat + a.h.toNat) ∧
    (¬ WindowFits a.x.toNat a.y.toNat a.w.toNat a.h.toNat →
      ∀ (s : State) (d : Draw), s.latched = a → a.bufLen.toNat = a.w.toNat * a.h.toNat / 8 → a.x.toNat % 8 = 0 →
        a.w.toNat % 8 = 0 → s.mode = .full →
        ∃ t, runSeqStep .enterPartial d s = .next t ∧ t.fault = true ∧ t.faultCode = 9#4 ∧ t.inflight = false ∧
          t.mode = .full ∧ t.trace = s.trace)

/-! ### The host port -/

/-- R70 and R49: the register map. A read returns the register of the offset, a reserved offset reads 0; a write reaches
CTRL or the argument register of the offset, and is ignored everywhere else; the block decodes 64 bytes from EPD_BASE. That
an aligned offset past those 64 bytes reads 0 and ignores writes, as the reserved ones do, is the model's choice (log 22). -/
def Obligations.HostPortMap : Prop :=
  (∀ (s : State) (off : Nat) (rest : List HostLine), off % 4 = 0 → s.prog = .rd ⟨4, off⟩ :: rest →
    hostMove s = .next { s with
      prog := rest
      rdata := (if off = 0x04 then statusWord s else if off = 0x08 then s.result else if off = 0x0C then s.errCode
        else if off = 0x10 then s.args.bufBase else if off = 0x14 then s.args.bufLen else if off = 0x18 then s.args.x
        else if off = 0x1C then s.args.y else if off = 0x20 then s.args.w else if off = 0x24 then s.args.h
        else 0#32) }) ∧
  (∀ (s : State) (off : Nat) (v : Word) (rest : List HostLine), off % 4 = 0 → s.prog = .wr ⟨4, off⟩ v :: rest →
    hostMove s =
      (if off = 0x00 then exec (decodeCtrl v) { s with prog := rest }
      else if off = 0x10 then .next { s with prog := rest, args := { s.args with bufBase := v } }
      else if off = 0x14 then .next { s with prog := rest, args := { s.args with bufLen := v } }
      else if off = 0x18 then .next { s with prog := rest, args := { s.args with x := v } }
      else if off = 0x1C then .next { s with prog := rest, args := { s.args with y := v } }
      else if off = 0x20 then .next { s with prog := rest, args := { s.args with w := v } }
      else if off = 0x24 then .next { s with prog := rest, args := { s.args with h := v } }
      else .next { s with prog := rest })) ∧
  (∀ addr off : Nat, hostOffset addr = some off ↔ addr = Config.epdBase + off ∧ off < 64)

/-- R30: the six argument registers are read and written by the host at any time, and by nothing else: a write is read
back and leaves the other five alone; no other move but block reset changes them. An accepted CTRL word, and no other,
latches all six as they stand. -/
def Obligations.ArgumentRegisters : Prop :=
  (∀ (s : State) (r : HostReg) (v : Word) (rest : List HostLine), r ∈ argRegs → s.prog = .wr r.access v :: rest →
    ∃ t, hostMove s = .next t ∧ t = { s with prog := rest, args := t.args } ∧ readPort r.offset t = v ∧
      ∀ r' ∈ argRegs, r' ≠ r → readPort r'.offset t = readPort r'.offset s) ∧
  (∀ (m : Move) (s t : State), applyMove m s = .next t → m ≠ .blkRst → t.args ≠ s.args →
    m = .host ∧ ∃ (r : HostReg) (v : Word) (rest : List HostLine), r ∈ argRegs ∧ s.prog = .wr r.access v :: rest) ∧
  (∀ (v : Word) (s : State), Accepting s →
    ¬ (v.extractLsb' 0 4 ∈ [0x0#4, 0xF#4] ∨ (v.extractLsb' 0 4 = 0xD#4 ∧ v.extractLsb' 4 2 = 3#2)) →
    (v.extractLsb' 0 4 ∈ [0x3#4, 0x4#4, 0x5#4, 0x6#4, 0x8#4, 0xD#4] → s.lifecycle = .ready) →
    ∃ t, exec (decodeCtrl v) s = .next t ∧ t.inflight = true ∧ t.latched = s.args) ∧
  (∀ (m : Move) (s t : State), applyMove m s = .next t → m ≠ .blkRst → t.latched ≠ s.latched →
    m = .host ∧ s.inflight = false ∧ t.inflight = true ∧ t.latched = s.args)

/-- R33: the fields of STATUS in every state; reserved bits read 0, LIFECYCLE is never 3, a host write is ignored, and the
word after reset. -/
def Obligations.StatusWordLayout : Prop :=
  (∀ s : State,
    (statusWord s).getLsbD 0 = s.inflight ∧ (statusWord s).getLsbD 1 = s.err ∧ (statusWord s).getLsbD 2 = s.fault ∧
    (statusWord s).getLsbD 3 = false ∧ (statusWord s).extractLsb' 4 4 = s.faultCode ∧
    (statusWord s).getLsbD 8 = decide (s.mode = .quick) ∧ (statusWord s).getLsbD 9 = decide (s.bg = .white) ∧
    (statusWord s).extractLsb' 10 2 =
      (match s.lifecycle with | .uninit => 0#2 | .ready => 1#2 | .indeterminate => 2#2) ∧
    (statusWord s).extractLsb' 12 20 = 0#20) ∧
  (∀ (s : State) (v : Word) (rest : List HostLine), s.prog = .wr HostReg.status.access v :: rest →
    hostMove s = .next { s with prog := rest }) ∧
  (∀ (s : State) (rest : List HostLine), s.prog = .rd HostReg.status.access :: rest →
    hostMove s = .next { s with prog := rest, rdata := statusWord s }) ∧
  statusWord State.reset = 0x00000200#32

/-- R68: a host access is admitted as an aligned 32-bit word; a program's line of any other access is refused, and nothing
else ever is. -/
def Obligations.RefusedHostAccess : Prop :=
  ∀ (m : Move) (s : State) (r : Refusal), applyMove m s = .refused r ↔
    m = .host ∧ ∃ (a : Access) (rest : List HostLine), (s.prog = .rd a :: rest ∨ ∃ v, s.prog = .wr a v :: rest) ∧
      ¬ (a.width = 4 ∧ a.offset % 4 = 0) ∧ r = .hostAccess a.width a.offset

/-- R97, by the model's reading of a host program (log 24): the expansion of every mnemonic; that of
update_partial_frame runs to the operation's acceptance with the six values latched; `poll` stays while INFLIGHT = 1. -/
def Obligations.PseudoInstruction : Prop :=
  (∀ (i : Instr) (vs : List Word), isHostOp i = true → vs.length = i.operandRegs.length →
    ∃ v, encode i = some (.ctrl v) ∧ i.expand vs =
      some ((i.operandRegs.zip vs).map (fun rv => HostLine.wr rv.1.access rv.2) ++ [.wr HostReg.ctrl.access v, .poll])) ∧
  (∀ (s : State) (b l x y w h : Word) (lines rest : List HostLine), Accepting s → s.lifecycle = .ready →
    Instr.updatePartialFrame.expand [b, l, x, y, w, h] = some lines → s.prog = lines ++ rest →
    runMoves (List.replicate 7 .host) s =
      .next { s with
        args := ⟨b, l, x, y, w, h⟩, latched := ⟨b, l, x, y, w, h⟩, err := false, inflight := true
        seqOp := some .updatePartialFrame, seqStep := 0, prog := .poll :: rest }) ∧
  (∀ (s : State) (rest : List HostLine), s.prog = .poll :: rest →
    hostMove s = .next { s with prog := (if s.inflight then .poll :: rest else rest), rdata := statusWord s })

/-! ### A step -/

/-- A step runs the instruction it decodes or fetches: a CTRL write runs `exec` of the decoded word, with the line taken
from the host's program; a cycle step runs `exec` of its panel command; an open cycle goes on by one event; with the
script at its end the next move is free. The script is the model's own field (log 1). -/
def Obligations.StepRunsDecoded : Prop :=
  (∀ (s : State) (ms : List Move) (v : Word) (rest : List HostLine), s.script = .host :: ms →
    s.prog = .wr HostReg.ctrl.access v :: rest → step s = exec (decodeCtrl v) { s with script := ms, prog := rest }) ∧
  (∀ (s : State) (d : Draw) (ms : List Move) (i : Instr), s.script = .sequencer d :: ms → s.inflight = true →
    s.timer = none → s.cyc = none → seqFetch s = some (.cycle i) → step s = exec i { s with script := ms }) ∧
  (∀ (s : State) (d : Draw) (ms : List Move) (c : Cycle), s.script = .sequencer d :: ms → s.inflight = true →
    s.timer = none → s.cyc = some c → step s = .next (cycleStep c d { s with script := ms })) ∧
  (∀ s : State, s.script = [] → step s = applyMove (Config.freeMove s.tick) { s with tick := s.tick + 1 })

/-- The host's placing of a table word (log 28): the very next step runs the instruction the decoder reads from it. -/
def Obligations.PlacedWordRuns : Prop :=
  ∀ (s : State) (nbits w : Nat) (i : Instr), decodeTableWord nbits w = some i →
    (i.cycle? = none → step (s.withFetchWord nbits w) = exec i s) ∧
    (i.cycle?.isSome = true → step (s.withFetchWord nbits w) =
      exec i { s with seqOp := some i, seqStep := 0, inflight := true, cyc := none, timer := none })

/-- R270: block reset, in any state. A run begins with an empty transcript, and no operation is left in flight. -/
def Obligations.BlockReset : Prop :=
  (∀ s : State, ∃ t, applyMove .blkRst s = .next t ∧ t.mode = .full ∧ t.bg = .white ∧ t.lifecycle = .uninit ∧
    t.fault = false ∧ t.faultCode = 0#4 ∧ t.err = false ∧ t.errCode = 0#32 ∧ t.inflight = false ∧ t.result = 0#32 ∧
    (t.args.bufBase = 0#32 ∧ t.args.bufLen = 0#32 ∧ t.args.x = 0#32 ∧ t.args.y = 0#32 ∧ t.args.w = 0#32 ∧
      t.args.h = 0#32) ∧
    t.csN = true ∧ t.dc = true ∧ t.rstN = true ∧ t.seqOp = none ∧ t.seqStep = 0 ∧ t.cyc = none ∧ t.timer = none ∧
    t.trace = []) ∧
  applyMove .blkRst State.reset = .next State.reset

/-! ### Acceptance and faults -/

/-- R98: acceptance of a CTRL write: the checks in the order written, the first that fails being the one reported, and the
start of an operation that passes them all. -/
def Obligations.Acceptance : Prop :=
  ∀ (v : Word) (s : State), ∃ t, exec (decodeCtrl v) s = .next t ∧
    (s.fault = true → t = s) ∧
    (s.fault = false → s.inflight = true → t = { s with
      fault := true, faultCode := 2#4, inflight := false, seqOp := none, seqStep := 0, csN := t.csN, dc := t.dc
      rstN := t.rstN, cyc := t.cyc, timer := t.timer, tainted := t.tainted }) ∧
    (Accepting s →
      (v.extractLsb' 0 4 = 0x0#4 ∨ v.extractLsb' 0 4 = 0xF#4 ∨
        (v.extractLsb' 0 4 = 0xD#4 ∧ v.extractLsb' 4 2 = 3#2) →
        t = { s with
          fault := true, faultCode := 1#4, seqOp := none, seqStep := 0, cyc := t.cyc, timer := t.timer
          tainted := t.tainted }) ∧
      (v.extractLsb' 0 4 ≠ 0x0#4 → v.extractLsb' 0 4 ≠ 0xF#4 →
        ¬ (v.extractLsb' 0 4 = 0xD#4 ∧ v.extractLsb' 4 2 = 3#2) →
        (v.extractLsb' 0 4 ∈ [0x3#4, 0x4#4, 0x5#4, 0x6#4, 0x8#4, 0xD#4] → s.lifecycle ≠ .ready →
          t = { s with
            fault := true, faultCode := 3#4, seqOp := none, seqStep := 0, cyc := t.cyc, timer := t.timer
            tainted := t.tainted }) ∧
        ((v.extractLsb' 0 4 ∈ [0x3#4, 0x4#4, 0x5#4, 0x6#4, 0x8#4, 0xD#4] → s.lifecycle = .ready) →
          t = { s with
            latched := s.args, err := false, inflight := true, seqOp := some (decodeCtrl v), seqStep := 0 })))

/-- R243: fault entry, by whatever move: FAULT and a code 1 to 9, INFLIGHT and SEQ cleared, and nothing else of the
registers; no event; unless it is Reentrant, before the operation's first event. That DC and RST_N keep their levels is the
model's choice (log 15). -/
def Obligations.FaultEntry : Prop :=
  ∀ (m : Move) (s t : State), applyMove m s = .next t → s.fault = false → t.fault = true →
    1 ≤ t.faultCode.toNat ∧ t.faultCode.toNat ≤ 9 ∧ t.inflight = false ∧ t.seqOp = none ∧ t.seqStep = 0 ∧
    t.mode = s.mode ∧ t.bg = s.bg ∧ t.lifecycle = s.lifecycle ∧ t.err = s.err ∧ t.errCode = s.errCode ∧
    t.result = s.result ∧ t.args = s.args ∧ t.dc = s.dc ∧ t.rstN = s.rstN ∧
    (t.faultCode ≠ 2#4 → t.csN = s.csN ∧ (m = .host ∨ (s.seqStep = 0 ∧ s.cyc = none))) ∧ t.trace = s.trace

/-- R244 and R88: a reserved code, or SET_LUT with LUTSEL = 3, raises IllegalOp at acceptance, precisely; and the words that
do. For RESERVED_0 and RESERVED_F taking this fault is their whole effect. -/
def Obligations.IllegalOpRaised : Prop :=
  (∀ (i : Instr) (s : State), i ∈ [.reserved0, .reservedF, .setLut .reserved] → Inv s → Accepting s →
    exec i s = .next { s with fault := true, faultCode := 1#4 }) ∧
  (∀ v : Word, decodeCtrl v ∈ [.reserved0, .reservedF, .setLut .reserved] ↔
    v.extractLsb' 0 4 = 0x0#4 ∨ v.extractLsb' 0 4 = 0xF#4 ∨
      (v.extractLsb' 0 4 = 0xD#4 ∧ v.extractLsb' 4 2 = 3#2))

/-- R245: the frame operations raise NotReady, precisely, unless LIFECYCLE is Ready; every other operation is accepted in
every LIFECYCLE state. -/
def Obligations.NotReadyRaised : Prop :=
  (∀ (i : Instr) (s : State), i ∈ [.updateFrame, .updatePartialFrame, .displayFrame, .updateAndDisplayFrame,
      .clearFrame, .setLut .noOverride, .setLut .full, .setLut .quick] → Inv s → Accepting s → s.lifecycle ≠ .ready →
    exec i s = .next { s with fault := true, faultCode := 3#4 }) ∧
  (∀ (i : Instr) (s : State), i ∈ [.init, .wakeUp, .sleep, .setBackground .black, .setBackground .white,
      .getBackground, .getWidth, .getHeight, .waitUntilIdle] → Accepting s →
    exec i s = .next { s with latched := s.args, err := false, inflight := true, seqOp := some i, seqStep := 0 })

/-- R248: a CTRL write while an operation is in flight abandons it: Reentrant, CS_N at 1, nothing more emitted, every other
register as it was. -/
def Obligations.ReentrantAbandons : Prop :=
  ∀ (v : Word) (s : State), s.fault = false → s.inflight = true →
    ∃ t, exec (decodeCtrl v) s = .next t ∧ t.fault = true ∧ t.faultCode = 2#4 ∧ t.inflight = false ∧ t.csN = true ∧
      t.mode = s.mode ∧ t.bg = s.bg ∧ t.lifecycle = s.lifecycle ∧ t.err = s.err ∧ t.errCode = s.errCode ∧
      t.result = s.result ∧ t.args = s.args ∧ t.trace = s.trace ∧ ∀ d, sequencerMove d t = .next t

/-- R253: a halted block ignores every CTRL write and emits nothing; its registers still read; only block reset clears
FAULT and FAULT_CODE. -/
def Obligations.HaltedBlock : Prop :=
  ∀ s : State, Inv s → s.fault = true →
    (∀ v, exec (decodeCtrl v) s = .next s) ∧ (∀ d, sequencerMove d s = .next s) ∧
    (∀ (m : Move) (t : State), m ≠ .blkRst → applyMove m s = .next t →
      t.fault = true ∧ t.faultCode = s.faultCode ∧ t.inflight = false ∧ t.trace = s.trace) ∧
    (∀ (a : Access) (rest : List HostLine), a.Admitted → s.prog = .rd a :: rest →
      hostMove s = .next { s with prog := rest, rdata := readPort a.offset s }) ∧
    (∀ t, applyMove .blkRst s = .next t → t.fault = false ∧ t.faultCode = 0#4)

/-- R246: UPDATE_FRAME and UPDATE_AND_DISPLAY_FRAME raise BufferLength when BUF_LEN is not 2756, with no event and MODE as
it was (R178). -/
def Obligations.BufferLengthRaised : Prop :=
  ∀ (i : Instr) (s : State) (d : Draw), i ∈ [.updateFrame, .updateAndDisplayFrame] → Inv s → Accepting s →
    s.lifecycle = .ready → s.args.bufLen ≠ 2756#32 →
    exec i s = .next (startOp i s) ∧
    sequencerMove d (startOp i s) = .next { s with latched := s.args, fault := true, faultCode := 4#4 }

/-- R247, R249, R251, R252: UPDATE_PARTIAL_FRAME's checks in the order of R242, each with the state it leaves; where all
pass, MODE becomes Quick before the first event. -/
def Obligations.PartialChecks : Prop :=
  ∀ (s : State) (d : Draw), Inv s → Accepting s → s.lifecycle = .ready →
    exec .updatePartialFrame s = .next (startOp .updatePartialFrame s) ∧
    sequencerMove d (startOp .updatePartialFrame s) = .next
      (if s.args.bufLen.toNat ≠ s.args.w.toNat * s.args.h.toNat / 8 then
        { s with latched := s.args, fault := true, faultCode := 5#4 }
      else if s.args.x.toNat % 8 ≠ 0 then { s with latched := s.args, fault := true, faultCode := 6#4 }
      else if s.args.w.toNat % 8 ≠ 0 then { s with latched := s.args, fault := true, faultCode := 7#4 }
      else if s.mode ≠ .full then { s with latched := s.args, fault := true, faultCode := 8#4 }
      else if ¬ WindowFits s.args.x.toNat s.args.y.toNat s.args.w.toNat s.args.h.toNat then
        { s with latched := s.args, fault := true, faultCode := 9#4 }
      else
        { s with
          latched := s.args, inflight := true, seqOp := some .updatePartialFrame, seqStep := 1, mode := .quick })

/-! ### Frames -/

/-- What acceptance leaves unchanged, for each of the sixteen CTRL words: RESERVED_0, INIT, SLEEP, UPDATE_FRAME,
UPDATE_PARTIAL_FRAME, DISPLAY_FRAME, UPDATE_AND_DISPLAY_FRAME, WAKE_UP, CLEAR_FRAME, SET_BACKGROUND, GET_BACKGROUND,
GET_WIDTH, GET_HEIGHT, SET_LUT, WAIT_UNTIL_IDLE, RESERVED_F. That DC and RST_N keep their levels on Reentrant is the model's
choice (log 15). -/
def Obligations.HostOpFrame : Prop :=
  ∀ (i : Instr) (s t : State), i.cycle? = none → exec i s = .next t →
    t.args = s.args ∧ t.mode = s.mode ∧ t.bg = s.bg ∧ t.lifecycle = s.lifecycle ∧ t.errCode = s.errCode ∧
    t.result = s.result ∧ t.dc = s.dc ∧ t.rstN = s.rstN ∧ t.trace = s.trace ∧ t.panel = s.panel ∧ t.cfg = s.cfg ∧
    t.prog = s.prog ∧ t.rdata = s.rdata ∧ t.script = s.script ∧ t.tick = s.tick ∧ t.drawn = s.drawn ∧
    (s.fault = true ∨ s.inflight = false → t.csN = s.csN) ∧
    (t.err = s.err ∨ t.err = false) ∧ (t.latched = s.latched ∨ t.latched = s.args) ∧
    ∀ a, Memory.read? t.mem a = Memory.read? s.mem a

/-- What a panel command's meaning leaves unchanged, for each of the twenty-one: it begins its cycle with one pin event
(R114, R115), moving CS_N and DC and nothing else of the block. -/
def Obligations.PanelCommandFrame : Prop :=
  ∀ (c : PanelCommand) (p : Payload) (s : State),
    ∃ t k, exec (.ofCycle c p) s = .next t ∧ t.cyc = some k ∧ k.payload = p ∧ k.sent = 0 ∧
      t = { s with csN := t.csN, dc := t.dc, cyc := t.cyc, trace := t.trace } ∧
      (s.cfg.framing = .burst → t.csN = false ∧ t.dc = s.dc ∧ t.trace = s.trace ++ [.cs false]) ∧
      (s.cfg.framing = .perWrite → t.csN = s.csN ∧ t.dc = false ∧ t.trace = s.trace ++ [.dc false]) ∧
      ∀ a, Memory.read? t.mem a = Memory.read? s.mem a

/-- R60 and R136, of every sequencer step: it writes no host memory, no argument register and nothing of the host's; every
byte an address holds stays, what a first read settled too (log 17); while a delay runs it does nothing (log 16). -/
def Obligations.SequencerFrame : Prop :=
  ∀ (d : Draw) (s t : State), sequencerMove d s = .next t →
    t.args = s.args ∧ t.latched = s.latched ∧ t.cfg = s.cfg ∧ t.prog = s.prog ∧ t.rdata = s.rdata ∧
    t.script = s.script ∧ t.tick = s.tick ∧ (∀ a, Memory.read? t.mem a = Memory.read? s.mem a) ∧
    (∀ a b, hostByte? s a = some b → hostByte? t a = some b) ∧ (s.timer ≠ none → t = s)

/-! ### The framer -/

/-- R114: the whole of `Cycle(c, P)` under Burst, for each of the twenty-one panel commands: `exec` answers a next state, and
the framer's steps lead from it to the end of the cycle, with the pin-level transcript of the rule; `r` is the record of the
bus, of which PanelRecordFollowsBus speaks. -/
def Obligations.BurstCycle : Prop :=
  ∀ (c : PanelCommand) (p : Payload) (s : State) (bs : List Byte) (ds : List Draw),
    s.cfg.framing = .burst → s.inflight = true → s.timer = none → s.cyc = none → Yields s p bs →
    ds.length = bs.length + 4 → (∀ d ∈ ds, d.transport = .ok) →
    ∃ t r, exec (.ofCycle c p) s = .next t ∧ runDraws ds t = .next { s with
      trace := s.trace ++ [.cs false, .dc false, .cmd (Config.code c), .dc true] ++ bs.map .data ++ [.cs true]
      csN := true, dc := true, cyc := none, seqStep := s.seqStep + 1, panel := r }

/-- R115: `Cycle(c, P)` under PerWrite and `DataOnly(P)`, with the payload split into any nonempty chunks. -/
def Obligations.PerWriteCycle : Prop :=
  (∀ (c : PanelCommand) (p : Payload) (s : State) (bs : List Byte) (chunks : List (List Byte)),
    s.cfg.framing = .perWrite → s.inflight = true → s.timer = none → s.cyc = none → Yields s p bs →
    chunks.flatten = bs → (∀ w ∈ chunks, w ≠ []) →
    ∃ t ds r, exec (.ofCycle c p) s = .next t ∧ (∀ d ∈ ds, d.transport = .ok) ∧ runDraws ds t = .next { s with
      trace := s.trace ++ perWriteEvents c chunks, csN := true, dc := true, cyc := none, seqStep := s.seqStep + 1
      panel := r }) ∧
  (∀ (p : Payload) (s : State) (bs : List Byte) (chunks : List (List Byte)),
    s.csN = true → s.inflight = true → s.timer = none → s.cyc = none → Yields s p bs →
    chunks.flatten = bs → (∀ w ∈ chunks, w ≠ []) →
    ∃ ds r, (∀ d ∈ ds, d.transport = .ok) ∧ runDraws ds (beginDataOnly p s) = .next { s with
      trace := s.trace ++ dataOnlyEvents chunks, dc := true, cyc := none, seqStep := s.seqStep + 1, panel := r })

/-- R113: both framings, and every split of a payload, give the same byte-level transcript of a cycle: the command byte,
then the payload in order, nothing between (R90, R111). -/
def Obligations.FramingByteLevel : Prop :=
  ∀ (c : PanelCommand) (p : Payload) (s t : State) (bs : List Byte) (ds : List Draw),
    Yields s p bs → exec (.ofCycle c p) s = .next t → (∀ d ∈ ds, d.transport = .ok) → (runCycle ds t).cyc = none →
    byteLevel (runCycle ds t).trace = byteLevel s.trace ++ .cmd (Config.code c) :: bs.map .data

/-- R118 and R250: a transport error at any byte, in either framing, whether or not the failing byte went out: the cycle
stops, CS goes high, nothing more is emitted, and the operation ends by `abort Err(e)`; and the whole of a Burst cycle that
fails at index k of its bytes, those before it having gone out (R117). That a failing byte that went out and CS(1) with the
abort are two steps (R32), the second, `d2`, whatever it draws, and that CS(1) and the abort are one step, is the model's
choice (log 13). -/
def Obligations.TransportErrorInCycle : Prop :=
  (∀ (s : State) (k : Cycle) (d : Draw) (e : Nat) (sent : Bool) (ev : Event), s.inflight = true → s.timer = none →
    s.cyc = some k → d.transport = .err e sent → e < 2 ^ 32 →
    ((∃ c, k.phase = .cmdByte c ∧ ev = .cmd (Config.code c)) ∨
      (∃ b, k.phase = .data ∧ payloadByte s d k.payload k.sent = some b ∧ ev = .data b)) →
    ∃ u, (∀ d2, runDraws (d :: if sent then [d2] else []) s = .next u) ∧
      (u = { s with
        trace := s.trace ++ (if sent then [ev] else []) ++ (if s.csN then [] else [.cs true]), err := true
        errCode := BitVec.ofNat 32 e, lifecycle := .indeterminate, inflight := false, seqOp := none, seqStep := 0
        csN := true, dc := u.dc, cyc := none, timer := none, tainted := [], panel := u.panel, drawn := u.drawn }) ∧
      ∀ d', sequencerMove d' u = .next u) ∧
  (∀ (c : PanelCommand) (p : Payload) (s : State) (bs : List Byte) (ds : List Draw) (d : Draw) (e k : Nat) (sent : Bool),
    s.cfg.framing = .burst → s.inflight = true → s.timer = none → s.cyc = none → Yields s p bs → k ≤ bs.length →
    ds.length = (if k = 0 then 1 else k + 2) → (∀ d' ∈ ds, d'.transport = .ok) → d.transport = .err e sent →
    e < 2 ^ 32 →
    ∃ t u, exec (.ofCycle c p) s = .next t ∧ (∀ d2, runDraws (ds ++ d :: if sent then [d2] else []) t = .next u) ∧
      (u = { s with
        trace := s.trace ++
          (if k = 0 then [.cs false, .dc false] ++ (if sent then [.cmd (Config.code c)] else [])
            else [.cs false, .dc false, .cmd (Config.code c), .dc true] ++ (bs.take (k - 1)).map .data ++
              (if sent then ((bs.drop (k - 1)).take 1).map .data else [])) ++ [.cs true]
        err := true, errCode := BitVec.ofNat 32 e, lifecycle := .indeterminate, inflight := false, seqOp := none
        seqStep := 0, csN := true, dc := u.dc, cyc := none, timer := none, tainted := [], panel := u.panel }))

/-- R61, with the model's rendering of a stuck block as a move that changes nothing (log 19): a buffer read of an address
host memory does not admit gives the block no step and no value; no address past 2^32 - 1 is admitted, the buffer's range
being over unbounded integers. -/
def Obligations.StuckRead : Prop :=
  (∀ (s : State) (d : Draw) (c : Cycle) (base len : Nat), s.cyc = some c → s.inflight = true → s.timer = none →
    c.phase = .data → (c.payload = .buf base len ∨ c.payload = .bufCompl base len) → c.sent < len →
    admits s (base + c.sent) = false → sequencerMove d s = .next s) ∧
  (∀ (s : State) (a : Nat), 2 ^ 32 ≤ a → admits s a = false) ∧
  (∀ (s : State) (d : Draw) (a : Nat), memRead s d a = none ↔ admits s a = false)

/-- R62 and R63: what a buffer read yields: the byte at BUF_BASE + i, or its complement; while the host keeps its duty two
reads of one address give the same value, the host having placed a byte there or not (log 17), and no move but the host's
store there changes it; a byte the host stores in the buffer of the operation in flight reads as whatever is drawn (log 20);
and the host's store changes no other address. -/
def Obligations.BufferReads : Prop :=
  (∀ (s : State) (d : Draw) (base len i : Nat) (b : Byte), i < len → admits s (base + i) = true →
    base + i ∉ s.tainted → Memory.read? s.mem (base + i) = some b →
    payloadByte s d (.buf base len) i = some b ∧ payloadByte s d (.bufCompl base len) i = some (~~~b)) ∧
  (∀ (s t : State) (d : Draw) (c : Cycle) (base len : Nat) (b : Byte), s.inflight = true → s.timer = none →
    s.cyc = some c → c.phase = .data → (c.payload = .buf base len ∨ c.payload = .bufCompl base len) → c.sent < len →
    base + c.sent ∉ s.tainted → memRead s d (base + c.sent) = some b → sequencerMove d s = .next t →
    ∀ d', memRead t d' (base + c.sent) = some b) ∧
  (∀ (m : Move) (s t : State) (a : Nat) (b : Byte), applyMove m s = .next t → (∀ d, memRead s d a = some b) →
    (∀ k v, m = .hostStore k v → k.toNat ≠ a) → ∀ d, memRead t d a = some b) ∧
  (∀ (s : State) (a : Word) (b v : Byte) (d : Draw) (op : Instr), s.inflight = true → s.seqOp = some op →
    op ∈ [.updateFrame, .updatePartialFrame, .updateAndDisplayFrame] → s.latched.bufBase.toNat ≤ a.toNat →
    a.toNat < s.latched.bufBase.toNat + s.latched.bufLen.toNat → admits s a.toNat = true → d.mem = v →
    memRead (hostStore a b s) d a.toNat = some v) ∧
  (∀ (s : State) (a : Word) (b : Byte), admits s a.toNat = true →
    Memory.read? (hostStore a b s).mem a.toNat = some b ∧
    hostStore a b s = { s with
      mem := (hostStore a b s).mem, drawn := (hostStore a b s).drawn, tainted := (hostStore a b s).tainted } ∧
    ∀ k, k ≠ a.toNat → Memory.read? (hostStore a b s).mem k = Memory.read? s.mem k ∧
      hostByte? (hostStore a b s) k = hostByte? s k)

/-! ### Waiting -/

/-- R131: `WaitIdle()` by the pin, at whatever place of a list it stands, with any number of busy samples before the idle
one: its transcript, and no register written. -/
def Obligations.WaitIdlePin : Prop :=
  ∀ (s : State) (op : Instr) (n : Nat), s.inflight = true → s.timer = none → s.cyc = none → s.seqOp = some op →
    (stepList op s)[s.seqStep]? = some .sample → (stepList op s)[s.seqStep + 1]? = some (.poll 1) →
    runMoves (busyMoves n ++ [.sequencer quietDraw]) s = .next { s with
      seqStep := s.seqStep + 2
      trace := s.trace ++ (List.replicate n [Event.sample false, Event.delay 1000]).flatten ++ [.sample true] }

/-- R133: however long the controller stays busy, the wait goes on from where it was, with INFLIGHT = 1: the run is kept,
not cut. -/
def Obligations.WaitNeverEnds : Prop :=
  ∀ (s : State) (op : Instr) (n : Nat), s.inflight = true → s.timer = none → s.cyc = none → s.seqOp = some op →
    (stepList op s)[s.seqStep]? = some .sample → (stepList op s)[s.seqStep + 1]? = some (.poll 1) →
    runMoves (busyMoves n) s = .next { s with
      trace := s.trace ++ (List.replicate n [Event.sample false, Event.delay 1000]).flatten }

/-- R134, with the model's one-step StatusRead (log 10): one turn of `WaitIdle()` by status query, in Burst. On an idle bit
it returns, on a busy one it delays and is at its head again. -/
def Obligations.StatusQueryWait : Prop :=
  ∀ (s : State) (op : Instr) (b : Byte), s.inflight = true → s.timer = none → s.cyc = none → s.cfg.framing = .burst →
    s.seqOp = some op → (stepList op s)[s.seqStep]? = some (.cycle (.getStatus (.bytes []))) →
    (stepList op s)[s.seqStep + 1]? = some .statusRead → (stepList op s)[s.seqStep + 2]? = some (.poll 2) →
    (b.getLsbD Config.statusIdleBit.val = Config.statusIdleValue →
      runDraws (List.replicate 5 quietDraw ++ [{ quietDraw with status := b }]) s = .next { s with
        seqStep := s.seqStep + 3, trace := s.trace ++ burstEvents .getStatus [] ++ [.statusRead b]
        csN := true, dc := true, panel := s.panel.afterCycle .getStatus [] }) ∧
    (b.getLsbD Config.statusIdleBit.val ≠ Config.statusIdleValue →
      runMoves (List.replicate 5 (.sequencer quietDraw) ++
        [.sequencer { quietDraw with status := b }, .sequencer quietDraw, .timer]) s = .next { s with
        trace := s.trace ++ burstEvents .getStatus [] ++ [.statusRead b, .delay 1000]
        csN := true, dc := true, panel := s.panel.afterCycle .getStatus [] })

/-- R139: the call sites of `WaitIdle()`: after PowerOn and last in INIT and WAKE_UP, after the settle delay of the
refreshing operations, in WAIT_UNTIL_IDLE, and nowhere else. `h` is the step a wait begins with. -/
def Obligations.WaitCallSites : Prop :=
  ∀ (op : Instr) (s : State) (h : SeqStep), isHostOp op = true → (waitIdleSteps s.cfg.busySource).head? = some h →
    (stepList op s).count h =
      (if op ∈ [.init, .wakeUp] then 2
        else if op ∈ [.displayFrame, .updateAndDisplayFrame, .clearFrame, .waitUntilIdle] then 1 else 0) ∧
    ∀ k, (stepList op s)[k]? = some h →
      (∃ rest, (stepList op s).drop k = waitIdleSteps s.cfg.busySource ++ rest) ∧
      ((op ∈ [.init, .wakeUp] ∧ 1 ≤ k ∧ ((stepList op s)[k - 1]? = some (.cycle (.powerOn (.bytes []))) ∨
          (stepList op s).drop k = waitIdleSteps s.cfg.busySource ++ [.finishInit])) ∨
        (op ∈ [.displayFrame, .updateAndDisplayFrame, .clearFrame] ∧ 1 ≤ k ∧
          (stepList op s)[k - 1]? = some (.delay Config.tSettle)) ∨
        (op = .waitUntilIdle ∧ k = 0))

/-! ### Operations run to their end -/

/-- R146 and R156: INIT and WAKE_UP, accepted in every LIFECYCLE state, run to the end whenever the controller is idle
after `n` and `m` busy samples: the transcript, LIFECYCLE Ready, and nothing else of the block changed. Here and below `r`
is the record of the bus, of which PanelRecordFollowsBus speaks. -/
def Obligations.InitRuns : Prop :=
  ∀ (i : Instr) (s : State) (n m : Nat), i ∈ [.init, .wakeUp] → Inv s → Accepting s → ThisHardware s →
    exec i s = .next (startOp i s) ∧
    ∃ r, LeadsTo (startOp i s) { s with
      latched := s.args, err := false, lifecycle := .ready, trace := s.trace ++ initEvents n m, panel := r }

/-- R177 and R179 to R181: UPDATE_FRAME with a buffer of 2756 bytes the host has placed. -/
def Obligations.UpdateFrameRuns : Prop :=
  ∀ (s : State) (bs : List Byte), Inv s → Accepting s → ThisHardware s → s.lifecycle = .ready →
    s.args.bufLen = 2756#32 → bs.length = 2756 → HoldsBuffer s s.args.bufBase.toNat bs →
    exec .updateFrame s = .next (startOp .updateFrame s) ∧
    ∃ r, LeadsTo (startOp .updateFrame s) { s with
      latched := s.args, mode := .full
      trace := s.trace ++ burstEvents .dataStartTransmission1 (List.replicate 2756 (Config.bgByte s.bg)) ++
        burstEvents .dataStartTransmission2 bs
      panel := r }

/-- R182, R186, R187: UPDATE_PARTIAL_FRAME, its checks passed, with the buffer the host has placed: partial prologue,
complemented plane, plane, MODE Quick. -/
def Obligations.UpdatePartialFrameRuns : Prop :=
  ∀ (s : State) (bs ds : List Byte), Inv s → Accepting s → ThisHardware s → s.lifecycle = .ready → s.mode = .full →
    s.args.bufLen.toNat = s.args.w.toNat * s.args.h.toNat / 8 → s.args.x.toNat % 8 = 0 → s.args.w.toNat % 8 = 0 →
    WindowFits s.args.x.toNat s.args.y.toNat s.args.w.toNat s.args.h.toNat → windowPayload s.args = .bytes ds →
    bs.length = s.args.bufLen.toNat → HoldsBuffer s s.args.bufBase.toNat bs →
    exec .updatePartialFrame s = .next (startOp .updatePartialFrame s) ∧
    ∃ r, LeadsTo (startOp .updatePartialFrame s) { s with
      latched := s.args, mode := .quick
      trace := s.trace ++ burstEvents .partialIn [] ++ burstEvents .partialWindow ds ++
        burstEvents .dataStartTransmission1 (bs.map fun b => ~~~b) ++ burstEvents .dataStartTransmission2 bs
      panel := r }

/-- R189 and R190: DISPLAY_FRAME loads MODE's LUT family and triggers, the controller idle after `n` busy samples. -/
def Obligations.DisplayFrameRuns : Prop :=
  ∀ (s : State) (n : Nat), Inv s → Accepting s → ThisHardware s → s.lifecycle = .ready →
    exec .displayFrame s = .next (startOp .displayFrame s) ∧
    ∃ r, LeadsTo (startOp .displayFrame s) { s with
      latched := s.args, trace := s.trace ++ lutEvents s.mode ++ triggerEvents n, panel := r }

/-- R192: UPDATE_AND_DISPLAY_FRAME: the two planes, the Full LUTs, the trigger, MODE Full. -/
def Obligations.UpdateAndDisplayFrameRuns : Prop :=
  ∀ (s : State) (bs : List Byte) (n : Nat), Inv s → Accepting s → ThisHardware s → s.lifecycle = .ready →
    s.args.bufLen = 2756#32 → bs.length = 2756 → HoldsBuffer s s.args.bufBase.toNat bs →
    exec .updateAndDisplayFrame s = .next (startOp .updateAndDisplayFrame s) ∧
    ∃ r, LeadsTo (startOp .updateAndDisplayFrame s) { s with
      latched := s.args, mode := .full
      trace := s.trace ++ burstEvents .dataStartTransmission1 (List.replicate 2756 (Config.bgByte s.bg)) ++
        burstEvents .dataStartTransmission2 bs ++ lutEvents .full ++ triggerEvents n
      panel := r }

/-- R194 to R196: CLEAR_FRAME: the background byte, its complement, the Full LUTs whatever MODE is, the trigger; MODE is
not written. -/
def Obligations.ClearFrameRuns : Prop :=
  ∀ (s : State) (n : Nat), Inv s → Accepting s → ThisHardware s → s.lifecycle = .ready →
    exec .clearFrame s = .next (startOp .clearFrame s) ∧
    ∃ r, LeadsTo (startOp .clearFrame s) { s with
      latched := s.args
      trace := s.trace ++ burstEvents .dataStartTransmission1 (List.replicate 2756 (Config.bgByte s.bg)) ++
        burstEvents .dataStartTransmission2 (List.replicate 2756 (~~~(Config.bgByte s.bg))) ++ lutEvents .full ++
        triggerEvents n
      panel := r }

/-- R161 to R167: SET_LUT loads the Full family for no override and for Full, the Quick family with its VCOM-DC override for
Quick, in the fixed order, and writes nothing else. -/
def Obligations.SetLutRuns : Prop :=
  ∀ (sel : LutSel) (f : Family) (s : State), (sel, f) ∈ [(.noOverride, .full), (.full, .full), (.quick, .quick)] →
    Inv s → Accepting s → ThisHardware s → s.lifecycle = .ready →
    exec (.setLut sel) s = .next (startOp (.setLut sel) s) ∧
    ∃ r, LeadsTo (startOp (.setLut sel) s) { s with
      latched := s.args, trace := s.trace ++ lutEvents f, panel := r }

/-- R209: WAIT_UNTIL_IDLE, accepted in every LIFECYCLE state, ends after `n` busy samples with nothing but its transcript. -/
def Obligations.WaitUntilIdleRuns : Prop :=
  ∀ (s : State) (n : Nat), Inv s → Accepting s → ThisHardware s →
    exec .waitUntilIdle s = .next (startOp .waitUntilIdle s) ∧
    LeadsTo (startOp .waitUntilIdle s) { s with
      latched := s.args, err := false, trace := s.trace ++ waitEvents n }

/-- R199: SLEEP is accepted in every LIFECYCLE state and completes in one step with no event and nothing changed, whatever
the environment answers. -/
def Obligations.SleepRuns : Prop :=
  ∀ (s : State) (d : Draw), Inv s → Accepting s →
    exec .sleep s = .next (startOp .sleep s) ∧
    sequencerMove d (startOp .sleep s) = .next { s with latched := s.args, err := false }

/-- R205 and R206: SET_BACKGROUND writes BG, GET_BACKGROUND writes RESULT with BG's code, each in one step with no event. -/
def Obligations.BackgroundRuns : Prop :=
  ∀ (s : State) (d : Draw), Inv s → Accepting s →
    (∀ c, exec (.setBackground c) s = .next (startOp (.setBackground c) s) ∧
      sequencerMove d (startOp (.setBackground c) s) = .next { s with latched := s.args, err := false, bg := c }) ∧
    exec .getBackground s = .next (startOp .getBackground s) ∧
    sequencerMove d (startOp .getBackground s) = .next { s with
      latched := s.args, err := false, result := (match s.bg with | .black => 0#32 | .white => 1#32) }

/-- R207 and R208: GET_WIDTH and GET_HEIGHT write RESULT with 104 and 212, each in one step with no event. -/
def Obligations.GeometryRuns : Prop :=
  ∀ (s : State) (d : Draw), Inv s → Accepting s →
    (exec .getWidth s = .next (startOp .getWidth s) ∧
      sequencerMove d (startOp .getWidth s) = .next { s with latched := s.args, err := false, result := 104#32 }) ∧
    exec .getHeight s = .next (startOp .getHeight s) ∧
    sequencerMove d (startOp .getHeight s) = .next { s with latched := s.args, err := false, result := 212#32 }

/-! ### Invariants and whole-machine rules -/

/-- The invariant holds at reset. -/
def Obligations.ResetInv : Prop := Inv State.reset

/-- Tier 3: every step keeps the invariant, whichever agent moves: memory's canonical form, codes 10 to 15 never, a halted
block idle, idle pins between cycles, CS_N and DC as the open cycle's phase asks, SEQ on its operation's list. -/
def Obligations.StepKeepsInv : Prop := ∀ s t : State, Inv s → step s = .next t → Inv t

/-- The model's own fault (log 30) is raised from no state that meets the invariant: SEQ never runs off its list (R32). -/
def Obligations.InvNeverFaults : Prop := ∀ (s : State) (r : Fault), Inv s → step s ≠ .fault r

/-- R35 and R176: who writes MODE: UPDATE_FRAME and UPDATE_AND_DISPLAY_FRAME to Full, UPDATE_PARTIAL_FRAME from Full to
Quick, at their first step and with no event, and block reset; nothing else, neither a fault nor an error. -/
def Obligations.ModeWriters : Prop :=
  ∀ (m : Move) (s t : State), applyMove m s = .next t → t.mode ≠ s.mode →
    (m = .blkRst ∧ t.mode = .full) ∨
    ((∃ d, m = .sequencer d) ∧ s.inflight = true ∧ s.seqStep = 0 ∧ t.inflight = true ∧ t.fault = s.fault ∧
      t.trace = s.trace ∧
      (((s.seqOp = some .updateFrame ∨ s.seqOp = some .updateAndDisplayFrame) ∧ t.mode = .full) ∨
        (s.seqOp = some .updatePartialFrame ∧ s.mode = .full ∧ t.mode = .quick)))

/-- R36 and R40: who writes BG (SET_BACKGROUND) and RESULT (GET_BACKGROUND, GET_WIDTH, GET_HEIGHT, each with its value),
beside block reset: every other operation leaves both as they were. -/
def Obligations.AccessorWriters : Prop :=
  ∀ (m : Move) (s t : State), applyMove m s = .next t → m ≠ .blkRst →
    (t.bg ≠ s.bg → (∃ d, m = .sequencer d) ∧ ∃ c, s.seqOp = some (.setBackground c) ∧ t.bg = c) ∧
    (t.result ≠ s.result → (∃ d, m = .sequencer d) ∧
      ((s.seqOp = some .getBackground ∧ t.result = (match s.bg with | .black => 0#32 | .white => 1#32)) ∨
        (s.seqOp = some .getWidth ∧ t.result = 104#32) ∨ (s.seqOp = some .getHeight ∧ t.result = 212#32)))

/-- R37 and R38: who writes LIFECYCLE, ERR and ERR_CODE beside block reset: INIT's completion sets Ready, a transport error
sets Indeterminate, ERR and ERR_CODE, an accepted operation clears ERR; ERR_CODE keeps its value until the next error. A
cycle stands failed (`TransportFails`) only where the transport has answered `Err(e)` to a byte that went out (R117, R118).
That the failed cycle is a step of its own and the registers are written at the step after the byte (R32) is the model's
choice (log 13). -/
def Obligations.StatusWriters : Prop :=
  (∀ (m : Move) (s t : State), applyMove m s = .next t → m ≠ .blkRst →
    (t.lifecycle ≠ s.lifecycle →
      (t.lifecycle = .ready ∧ (∃ d, m = .sequencer d) ∧ (s.seqOp = some .init ∨ s.seqOp = some .wakeUp) ∧
        t.inflight = false) ∨
      (t.lifecycle = .indeterminate ∧ t.err = true ∧ t.inflight = false ∧ ∃ e, TransportFails m s e)) ∧
    (s.err = false → t.err = true → t.lifecycle = .indeterminate ∧ t.inflight = false ∧
      ∃ e, TransportFails m s e ∧ (e < 2 ^ 32 → t.errCode = BitVec.ofNat 32 e)) ∧
    (t.errCode ≠ s.errCode → t.err = true ∧ t.lifecycle = .indeterminate ∧
      ∃ e, TransportFails m s e ∧ (e < 2 ^ 32 → t.errCode = BitVec.ofNat 32 e)) ∧
    (s.err = true → t.err = false → m = .host ∧ t.inflight = true ∧ t.fault = false)) ∧
  (∀ (m : Move) (s t : State) (c : Cycle) (e : Nat), applyMove m s = .next t → t.cyc = some c → c.phase = .failed e →
    s.cyc = some c ∨ ∃ d, m = .sequencer d ∧ d.transport = .err e true)

/-- R24, R32, R72: the transcript is append-only, written by the sequencer alone, at most one event a step. -/
def Obligations.TraceAppendOnly : Prop :=
  ∀ (m : Move) (s t : State), m ≠ .blkRst → applyMove m s = .next t →
    ∃ es, t.trace = s.trace ++ es ∧ (es ≠ [] → ∃ d, m = .sequencer d) ∧ es.length ≤ 1

/-- R95: a command byte that goes out is `CODE(c)` of a command of R91's table, never DeepSleep's or ForceTemperature's, and
with the BUSY pin never GetStatus's (R233). -/
def Obligations.EmittedCommands : Prop :=
  ∀ (m : Move) (s t : State) (es : List Event) (b : Byte), Inv s → m ≠ .blkRst → applyMove m s = .next t →
    t.trace = s.trace ++ es → .cmd b ∈ es →
    ∃ c, b = Config.code c ∧ c ≠ .deepSleep ∧ c ≠ .forceTemperature ∧ (s.cfg.busySource = .pin → c ≠ .getStatus)

/-- R24 and R90: a command byte goes out only with CS_N = 0 and DC at the command level, a data byte only with CS_N = 0 and
DC at the data level; a sample, a delay and the reset pin only between cycles, with CS_N = 1 (R119, R137). -/
def Obligations.BytesUnderPins : Prop :=
  ∀ (d : Draw) (s t : State) (es : List Event), Inv s → sequencerMove d s = .next t → t.trace = s.trace ++ es →
    (∀ b, .cmd b ∈ es → s.csN = false ∧ s.dc = false) ∧ (∀ b, .data b ∈ es → s.csN = false ∧ s.dc = true) ∧
    ((∃ v, .sample v ∈ es) ∨ (∃ n, .delay n ∈ es) ∨ (∃ v, .rst v ∈ es) → s.cyc = none ∧ s.csN = true)

/-- R197, R190, R275 and R150: every DisplayRefresh follows at once on a whole LUT load of the family its operation selects,
and is followed by the settle delay, of at least 200 microseconds, and the wait; every PowerOn is followed by the wait. -/
def Obligations.RefreshSites : Prop :=
  (∀ (op : Instr) (s : State) (k : Nat) (p : Payload), isHostOp op = true →
    (stepList op s)[k]? = some (.cycle (.displayRefresh p)) →
    p = .bytes [] ∧ op ∈ [.displayFrame, .updateAndDisplayFrame, .clearFrame] ∧
    ∃ before f, (stepList op s).take k = before ++ loadLuts (some f) ∧ (op = .displayFrame → f = s.mode) ∧
      (op ≠ .displayFrame → f = .full) ∧
      (stepList op s).drop (k + 1) = .delay Config.tSettle :: waitIdleSteps s.cfg.busySource ++ [.finish]) ∧
  200 ≤ Config.tSettle ∧
  (∀ (op : Instr) (s : State) (k : Nat) (p : Payload), isHostOp op = true →
    (stepList op s)[k]? = some (.cycle (.powerOn p)) →
    p = .bytes [] ∧ op ∈ [.init, .wakeUp] ∧ ∃ rest, (stepList op s).drop (k + 1) =
      waitIdleSteps s.cfg.busySource ++ rest)

/-- R188 and R168, on the model's record of the bus (log 27): no move takes the controller's record out of partial mode; a
VCOM-DC setting is sent only by INIT and WAKE_UP with VDC_PAYLOAD and by a Quick LUT load with 0x00. -/
def Obligations.PartialModeStays : Prop :=
  (∀ (m : Move) (s t : State), applyMove m s = .next t → s.panel.partialMode = true → t.panel.partialMode = true) ∧
  (∀ (op : Instr) (s : State) (k : Nat) (p : Payload), isHostOp op = true →
    (stepList op s)[k]? = some (.cycle (.vcmDcSetting p)) →
    (op ∈ [.init, .wakeUp] ∧ p = .bytes Config.vdcPayload.toList) ∨
    ((op = .setLut .quick ∨ (op = .displayFrame ∧ s.mode = .quick)) ∧ p = .bytes [0x00#8]))

/-- R46, by the model's record of what the bus has carried (log 27, and log 34 for the LUT register pointer): the record
changes only as the transcript grows, by the bytes that go out, and the cycle of a command leaves in it exactly that
command's bytes. -/
def Obligations.PanelRecordFollowsBus : Prop :=
  (∀ (m : Move) (s t : State) (es : List Event), m ≠ .blkRst → applyMove m s = .next t → t.trace = s.trace ++ es →
    t.panel = s.panel.afterEvents es) ∧
  (∀ (c : PanelCommand) (bs : List Byte) (r : PanelRecord), r.afterEvents (burstEvents c bs) = r.afterCycle c bs)

/-- R73: an operation in flight does not see the argument registers: with any values in them, a sequencer step does the
same. -/
def Obligations.LatchNoninterference : Prop :=
  ∀ (d : Draw) (s t : State) (a : Args), sequencerMove d s = .next t →
    sequencerMove d { s with args := a } = .next { t with args := a }

/-- R46: no rule of the block reads the controller's hidden state: with any record of it, a sequencer step does the same to
everything else. -/
def Obligations.PanelNoninterference : Prop :=
  ∀ (d : Draw) (s t : State) (p : PanelRecord), sequencerMove d s = .next t →
    ∃ p', sequencerMove d { s with panel := p } = .next { t with panel := p' }

end
end

