-- ==== Sys2Proof/Laws/Encoding.lean ====
section
/-! SUPPORT. The open parameters keep the spec's constraints, and the lemmas of the encoder and the decoder. -/

namespace Sys2Proof

/-- The command map is admissible, whatever the free map is (R237). -/
theorem Config.code_admissible : Config.CodeAdmissible Config.code := by
  by_cases h : Config.CodeAdmissible Config.freeCode
  · have e : Config.code = Config.freeCode := by
      funext c
      cases c <;> simp [Config.code, h]
    rw [e]; exact h
  · have e : Config.code = Config.someCode := by
      funext c
      cases c <;> simp [Config.code, h] <;> rfl
    rw [e]; decide

theorem PanelCommand.mem_all (c : PanelCommand) : c ∈ PanelCommand.all := by cases c <;> decide

/-- `CODE` is injective (R237). -/
theorem Config.code_injective {c c' : PanelCommand} (h : Config.code c = Config.code c') : c = c' :=
  List.inj_on_of_nodup_map Config.code_admissible.2.2 c.mem_all c'.mem_all h

/-- The colour bytes differ, whatever the free bytes are (R16). -/
theorem Config.bgByte_ne : Config.bgByte .black ≠ Config.bgByte .white := by
  unfold Config.bgByte
  split
  · assumption
  · decide

theorem commandOf_code (c : PanelCommand) : commandOf (Config.code c) = some c := by
  unfold commandOf
  rcases h : PanelCommand.all.find? (fun c' => Config.code c' == Config.code c) with _ | c'
  · have := List.find?_eq_none.1 h c c.mem_all
    simp at this
  · have := List.find?_some h
    exact congrArg some (Config.code_injective (by simpa using this))

@[simp] theorem Instr.cycle?_ofCycle (c : PanelCommand) (p : Payload) :
    (Instr.ofCycle c p).cycle? = some (c, p) := by cases c <;> rfl

theorem Instr.ofCycle_of_cycle? {i : Instr} {c : PanelCommand} {p : Payload} (h : i.cycle? = some (c, p)) :
    i = .ofCycle c p := by
  cases i <;> simp only [Instr.cycle?, reduceCtorEq, Option.some.injEq, Prod.mk.injEq] at h <;>
    obtain ⟨rfl, rfl⟩ := h <;> rfl

theorem decode_encodeCycle {c : PanelCommand} {p : Payload} {e : Encoding} (h : encodeCycle c p = some e) :
    decode e = .ok (Instr.ofCycle c p).literal := by
  rcases hp : p.static? with _ | bs <;> simp only [encodeCycle, hp, Option.map_none, Option.map_some, reduceCtorEq,
    Option.some.injEq] at h
  subst h
  simp [decode, decodeCycle, commandOf_code, Instr.literal, hp]

/-- What a CTRL word decodes to, as a function of its three fields alone. -/
def ctrlFields (op : BitVec 4) (sel : BitVec 2) (col : Bool) : Instr :=
  decodeCtrl (BitVec.setWidth 32 op ||| BitVec.setWidth 32 sel <<< 4 ||| BitVec.setWidth 32 (BitVec.ofBool col) <<< 8)

/-- Decoding reads OP, LUTSEL and COLOR and no other bit (30_encoding.md R81, R89). A fact about every decoded word is
one about these 128 cases. -/
theorem decodeCtrl_fields (v : Word) :
    decodeCtrl v = ctrlFields (v.extractLsb' 0 4) (v.extractLsb' 4 2) (v.getLsbD 8) := by
  have h0 : ∀ (op : BitVec 4) (sel : BitVec 2) (col : Bool),
      (BitVec.setWidth 32 op ||| BitVec.setWidth 32 sel <<< 4 |||
        BitVec.setWidth 32 (BitVec.ofBool col) <<< 8).extractLsb' 0 4 = op ∧
      (BitVec.setWidth 32 op ||| BitVec.setWidth 32 sel <<< 4 |||
        BitVec.setWidth 32 (BitVec.ofBool col) <<< 8).extractLsb' 4 2 = sel ∧
      (BitVec.setWidth 32 op ||| BitVec.setWidth 32 sel <<< 4 |||
        BitVec.setWidth 32 (BitVec.ofBool col) <<< 8).getLsbD 8 = col := by decide
  obtain ⟨h1, h2, h3⟩ := h0 (v.extractLsb' 0 4) (v.extractLsb' 4 2) (v.getLsbD 8)
  unfold ctrlFields decodeCtrl decodeColor decodeLutSel
  rw [h1, h2, h3]

end Sys2Proof
end

