-- ==== Sys2Proof/Laws/State.lean ====
section
/-! SUPPORT. What each named operation does to each field of State, one lemma per field, so that no later proof unfolds a
record update. -/

namespace Sys2Proof.Machine

/-! ### emit -/

@[simp] theorem emit_args (e : Event) (s : State) : (emit e s).args = s.args := rfl
@[simp] theorem emit_latched (e : Event) (s : State) : (emit e s).latched = s.latched := rfl
@[simp] theorem emit_seqOp (e : Event) (s : State) : (emit e s).seqOp = s.seqOp := rfl
@[simp] theorem emit_seqStep (e : Event) (s : State) : (emit e s).seqStep = s.seqStep := rfl
@[simp] theorem emit_inflight (e : Event) (s : State) : (emit e s).inflight = s.inflight := rfl
@[simp] theorem emit_err (e : Event) (s : State) : (emit e s).err = s.err := rfl
@[simp] theorem emit_fault (e : Event) (s : State) : (emit e s).fault = s.fault := rfl
@[simp] theorem emit_faultCode (e : Event) (s : State) : (emit e s).faultCode = s.faultCode := rfl
@[simp] theorem emit_mode (e : Event) (s : State) : (emit e s).mode = s.mode := rfl
@[simp] theorem emit_bg (e : Event) (s : State) : (emit e s).bg = s.bg := rfl
@[simp] theorem emit_lifecycle (e : Event) (s : State) : (emit e s).lifecycle = s.lifecycle := rfl
@[simp] theorem emit_errCode (e : Event) (s : State) : (emit e s).errCode = s.errCode := rfl
@[simp] theorem emit_result (e : Event) (s : State) : (emit e s).result = s.result := rfl
@[simp] theorem emit_csN (e : Event) (s : State) : (emit e s).csN = s.csN := rfl
@[simp] theorem emit_dc (e : Event) (s : State) : (emit e s).dc = s.dc := rfl
@[simp] theorem emit_rstN (e : Event) (s : State) : (emit e s).rstN = s.rstN := rfl
@[simp] theorem emit_cyc (e : Event) (s : State) : (emit e s).cyc = s.cyc := rfl
@[simp] theorem emit_timer (e : Event) (s : State) : (emit e s).timer = s.timer := rfl
@[simp] theorem emit_trace (e : Event) (s : State) : (emit e s).trace = s.trace ++ [e] := rfl
@[simp] theorem emit_panel (e : Event) (s : State) : (emit e s).panel = s.panel := rfl
@[simp] theorem emit_mem (e : Event) (s : State) : (emit e s).mem = s.mem := rfl
@[simp] theorem emit_drawn (e : Event) (s : State) : (emit e s).drawn = s.drawn := rfl
@[simp] theorem emit_cfg (e : Event) (s : State) : (emit e s).cfg = s.cfg := rfl
@[simp] theorem emit_tainted (e : Event) (s : State) : (emit e s).tainted = s.tainted := rfl
@[simp] theorem emit_prog (e : Event) (s : State) : (emit e s).prog = s.prog := rfl
@[simp] theorem emit_rdata (e : Event) (s : State) : (emit e s).rdata = s.rdata := rfl
@[simp] theorem emit_script (e : Event) (s : State) : (emit e s).script = s.script := rfl
@[simp] theorem emit_tick (e : Event) (s : State) : (emit e s).tick = s.tick := rfl

/-! ### driveCs -/

@[simp] theorem driveCs_args (v : Bool) (s : State) : (driveCs v s).args = s.args := rfl
@[simp] theorem driveCs_latched (v : Bool) (s : State) : (driveCs v s).latched = s.latched := rfl
@[simp] theorem driveCs_seqOp (v : Bool) (s : State) : (driveCs v s).seqOp = s.seqOp := rfl
@[simp] theorem driveCs_seqStep (v : Bool) (s : State) : (driveCs v s).seqStep = s.seqStep := rfl
@[simp] theorem driveCs_inflight (v : Bool) (s : State) : (driveCs v s).inflight = s.inflight := rfl
@[simp] theorem driveCs_err (v : Bool) (s : State) : (driveCs v s).err = s.err := rfl
@[simp] theorem driveCs_fault (v : Bool) (s : State) : (driveCs v s).fault = s.fault := rfl
@[simp] theorem driveCs_faultCode (v : Bool) (s : State) : (driveCs v s).faultCode = s.faultCode := rfl
@[simp] theorem driveCs_mode (v : Bool) (s : State) : (driveCs v s).mode = s.mode := rfl
@[simp] theorem driveCs_bg (v : Bool) (s : State) : (driveCs v s).bg = s.bg := rfl
@[simp] theorem driveCs_lifecycle (v : Bool) (s : State) : (driveCs v s).lifecycle = s.lifecycle := rfl
@[simp] theorem driveCs_errCode (v : Bool) (s : State) : (driveCs v s).errCode = s.errCode := rfl
@[simp] theorem driveCs_result (v : Bool) (s : State) : (driveCs v s).result = s.result := rfl
@[simp] theorem driveCs_csN (v : Bool) (s : State) : (driveCs v s).csN = v := rfl
@[simp] theorem driveCs_dc (v : Bool) (s : State) : (driveCs v s).dc = s.dc := rfl
@[simp] theorem driveCs_rstN (v : Bool) (s : State) : (driveCs v s).rstN = s.rstN := rfl
@[simp] theorem driveCs_cyc (v : Bool) (s : State) : (driveCs v s).cyc = s.cyc := rfl
@[simp] theorem driveCs_timer (v : Bool) (s : State) : (driveCs v s).timer = s.timer := rfl
@[simp] theorem driveCs_trace (v : Bool) (s : State) : (driveCs v s).trace = s.trace ++ [.cs v] := rfl
@[simp] theorem driveCs_panel (v : Bool) (s : State) : (driveCs v s).panel = s.panel := rfl
@[simp] theorem driveCs_mem (v : Bool) (s : State) : (driveCs v s).mem = s.mem := rfl
@[simp] theorem driveCs_drawn (v : Bool) (s : State) : (driveCs v s).drawn = s.drawn := rfl
@[simp] theorem driveCs_cfg (v : Bool) (s : State) : (driveCs v s).cfg = s.cfg := rfl
@[simp] theorem driveCs_tainted (v : Bool) (s : State) : (driveCs v s).tainted = s.tainted := rfl
@[simp] theorem driveCs_prog (v : Bool) (s : State) : (driveCs v s).prog = s.prog := rfl
@[simp] theorem driveCs_rdata (v : Bool) (s : State) : (driveCs v s).rdata = s.rdata := rfl
@[simp] theorem driveCs_script (v : Bool) (s : State) : (driveCs v s).script = s.script := rfl
@[simp] theorem driveCs_tick (v : Bool) (s : State) : (driveCs v s).tick = s.tick := rfl

/-! ### driveDc -/

@[simp] theorem driveDc_args (v : Bool) (s : State) : (driveDc v s).args = s.args := rfl
@[simp] theorem driveDc_latched (v : Bool) (s : State) : (driveDc v s).latched = s.latched := rfl
@[simp] theorem driveDc_seqOp (v : Bool) (s : State) : (driveDc v s).seqOp = s.seqOp := rfl
@[simp] theorem driveDc_seqStep (v : Bool) (s : State) : (driveDc v s).seqStep = s.seqStep := rfl
@[simp] theorem driveDc_inflight (v : Bool) (s : State) : (driveDc v s).inflight = s.inflight := rfl
@[simp] theorem driveDc_err (v : Bool) (s : State) : (driveDc v s).err = s.err := rfl
@[simp] theorem driveDc_fault (v : Bool) (s : State) : (driveDc v s).fault = s.fault := rfl
@[simp] theorem driveDc_faultCode (v : Bool) (s : State) : (driveDc v s).faultCode = s.faultCode := rfl
@[simp] theorem driveDc_mode (v : Bool) (s : State) : (driveDc v s).mode = s.mode := rfl
@[simp] theorem driveDc_bg (v : Bool) (s : State) : (driveDc v s).bg = s.bg := rfl
@[simp] theorem driveDc_lifecycle (v : Bool) (s : State) : (driveDc v s).lifecycle = s.lifecycle := rfl
@[simp] theorem driveDc_errCode (v : Bool) (s : State) : (driveDc v s).errCode = s.errCode := rfl
@[simp] theorem driveDc_result (v : Bool) (s : State) : (driveDc v s).result = s.result := rfl
@[simp] theorem driveDc_csN (v : Bool) (s : State) : (driveDc v s).csN = s.csN := rfl
@[simp] theorem driveDc_dc (v : Bool) (s : State) : (driveDc v s).dc = v := rfl
@[simp] theorem driveDc_rstN (v : Bool) (s : State) : (driveDc v s).rstN = s.rstN := rfl
@[simp] theorem driveDc_cyc (v : Bool) (s : State) : (driveDc v s).cyc = s.cyc := rfl
@[simp] theorem driveDc_timer (v : Bool) (s : State) : (driveDc v s).timer = s.timer := rfl
@[simp] theorem driveDc_trace (v : Bool) (s : State) : (driveDc v s).trace = s.trace ++ [.dc v] := rfl
@[simp] theorem driveDc_panel (v : Bool) (s : State) : (driveDc v s).panel = s.panel := rfl
@[simp] theorem driveDc_mem (v : Bool) (s : State) : (driveDc v s).mem = s.mem := rfl
@[simp] theorem driveDc_drawn (v : Bool) (s : State) : (driveDc v s).drawn = s.drawn := rfl
@[simp] theorem driveDc_cfg (v : Bool) (s : State) : (driveDc v s).cfg = s.cfg := rfl
@[simp] theorem driveDc_tainted (v : Bool) (s : State) : (driveDc v s).tainted = s.tainted := rfl
@[simp] theorem driveDc_prog (v : Bool) (s : State) : (driveDc v s).prog = s.prog := rfl
@[simp] theorem driveDc_rdata (v : Bool) (s : State) : (driveDc v s).rdata = s.rdata := rfl
@[simp] theorem driveDc_script (v : Bool) (s : State) : (driveDc v s).script = s.script := rfl
@[simp] theorem driveDc_tick (v : Bool) (s : State) : (driveDc v s).tick = s.tick := rfl

/-! ### driveRst -/

@[simp] theorem driveRst_args (v : Bool) (s : State) : (driveRst v s).args = s.args := rfl
@[simp] theorem driveRst_latched (v : Bool) (s : State) : (driveRst v s).latched = s.latched := rfl
@[simp] theorem driveRst_seqOp (v : Bool) (s : State) : (driveRst v s).seqOp = s.seqOp := rfl
@[simp] theorem driveRst_seqStep (v : Bool) (s : State) : (driveRst v s).seqStep = s.seqStep := rfl
@[simp] theorem driveRst_inflight (v : Bool) (s : State) : (driveRst v s).inflight = s.inflight := rfl
@[simp] theorem driveRst_err (v : Bool) (s : State) : (driveRst v s).err = s.err := rfl
@[simp] theorem driveRst_fault (v : Bool) (s : State) : (driveRst v s).fault = s.fault := rfl
@[simp] theorem driveRst_faultCode (v : Bool) (s : State) : (driveRst v s).faultCode = s.faultCode := rfl
@[simp] theorem driveRst_mode (v : Bool) (s : State) : (driveRst v s).mode = s.mode := rfl
@[simp] theorem driveRst_bg (v : Bool) (s : State) : (driveRst v s).bg = s.bg := rfl
@[simp] theorem driveRst_lifecycle (v : Bool) (s : State) : (driveRst v s).lifecycle = s.lifecycle := rfl
@[simp] theorem driveRst_errCode (v : Bool) (s : State) : (driveRst v s).errCode = s.errCode := rfl
@[simp] theorem driveRst_result (v : Bool) (s : State) : (driveRst v s).result = s.result := rfl
@[simp] theorem driveRst_csN (v : Bool) (s : State) : (driveRst v s).csN = s.csN := rfl
@[simp] theorem driveRst_dc (v : Bool) (s : State) : (driveRst v s).dc = s.dc := rfl
@[simp] theorem driveRst_rstN (v : Bool) (s : State) : (driveRst v s).rstN = v := rfl
@[simp] theorem driveRst_cyc (v : Bool) (s : State) : (driveRst v s).cyc = s.cyc := rfl
@[simp] theorem driveRst_timer (v : Bool) (s : State) : (driveRst v s).timer = s.timer := rfl
@[simp] theorem driveRst_trace (v : Bool) (s : State) : (driveRst v s).trace = s.trace ++ [.rst v] := rfl
@[simp] theorem driveRst_panel (v : Bool) (s : State) : (driveRst v s).panel = s.panel := rfl
@[simp] theorem driveRst_mem (v : Bool) (s : State) : (driveRst v s).mem = s.mem := rfl
@[simp] theorem driveRst_drawn (v : Bool) (s : State) : (driveRst v s).drawn = s.drawn := rfl
@[simp] theorem driveRst_cfg (v : Bool) (s : State) : (driveRst v s).cfg = s.cfg := rfl
@[simp] theorem driveRst_tainted (v : Bool) (s : State) : (driveRst v s).tainted = s.tainted := rfl
@[simp] theorem driveRst_prog (v : Bool) (s : State) : (driveRst v s).prog = s.prog := rfl
@[simp] theorem driveRst_rdata (v : Bool) (s : State) : (driveRst v s).rdata = s.rdata := rfl
@[simp] theorem driveRst_script (v : Bool) (s : State) : (driveRst v s).script = s.script := rfl
@[simp] theorem driveRst_tick (v : Bool) (s : State) : (driveRst v s).tick = s.tick := rfl

/-! ### startDelay -/

@[simp] theorem startDelay_args (t : Nat) (s : State) : (startDelay t s).args = s.args := rfl
@[simp] theorem startDelay_latched (t : Nat) (s : State) : (startDelay t s).latched = s.latched := rfl
@[simp] theorem startDelay_seqOp (t : Nat) (s : State) : (startDelay t s).seqOp = s.seqOp := rfl
@[simp] theorem startDelay_seqStep (t : Nat) (s : State) : (startDelay t s).seqStep = s.seqStep := rfl
@[simp] theorem startDelay_inflight (t : Nat) (s : State) : (startDelay t s).inflight = s.inflight := rfl
@[simp] theorem startDelay_err (t : Nat) (s : State) : (startDelay t s).err = s.err := rfl
@[simp] theorem startDelay_fault (t : Nat) (s : State) : (startDelay t s).fault = s.fault := rfl
@[simp] theorem startDelay_faultCode (t : Nat) (s : State) : (startDelay t s).faultCode = s.faultCode := rfl
@[simp] theorem startDelay_mode (t : Nat) (s : State) : (startDelay t s).mode = s.mode := rfl
@[simp] theorem startDelay_bg (t : Nat) (s : State) : (startDelay t s).bg = s.bg := rfl
@[simp] theorem startDelay_lifecycle (t : Nat) (s : State) : (startDelay t s).lifecycle = s.lifecycle := rfl
@[simp] theorem startDelay_errCode (t : Nat) (s : State) : (startDelay t s).errCode = s.errCode := rfl
@[simp] theorem startDelay_result (t : Nat) (s : State) : (startDelay t s).result = s.result := rfl
@[simp] theorem startDelay_csN (t : Nat) (s : State) : (startDelay t s).csN = s.csN := rfl
@[simp] theorem startDelay_dc (t : Nat) (s : State) : (startDelay t s).dc = s.dc := rfl
@[simp] theorem startDelay_rstN (t : Nat) (s : State) : (startDelay t s).rstN = s.rstN := rfl
@[simp] theorem startDelay_cyc (t : Nat) (s : State) : (startDelay t s).cyc = s.cyc := rfl
@[simp] theorem startDelay_timer (t : Nat) (s : State) : (startDelay t s).timer = some t := rfl
@[simp] theorem startDelay_trace (t : Nat) (s : State) : (startDelay t s).trace = s.trace ++ [.delay t] := rfl
@[simp] theorem startDelay_panel (t : Nat) (s : State) : (startDelay t s).panel = s.panel := rfl
@[simp] theorem startDelay_mem (t : Nat) (s : State) : (startDelay t s).mem = s.mem := rfl
@[simp] theorem startDelay_drawn (t : Nat) (s : State) : (startDelay t s).drawn = s.drawn := rfl
@[simp] theorem startDelay_cfg (t : Nat) (s : State) : (startDelay t s).cfg = s.cfg := rfl
@[simp] theorem startDelay_tainted (t : Nat) (s : State) : (startDelay t s).tainted = s.tainted := rfl
@[simp] theorem startDelay_prog (t : Nat) (s : State) : (startDelay t s).prog = s.prog := rfl
@[simp] theorem startDelay_rdata (t : Nat) (s : State) : (startDelay t s).rdata = s.rdata := rfl
@[simp] theorem startDelay_script (t : Nat) (s : State) : (startDelay t s).script = s.script := rfl
@[simp] theorem startDelay_tick (t : Nat) (s : State) : (startDelay t s).tick = s.tick := rfl

/-! ### emitCommand -/

@[simp] theorem emitCommand_args (c : PanelCommand) (s : State) : (emitCommand c s).args = s.args := rfl
@[simp] theorem emitCommand_latched (c : PanelCommand) (s : State) : (emitCommand c s).latched = s.latched := rfl
@[simp] theorem emitCommand_seqOp (c : PanelCommand) (s : State) : (emitCommand c s).seqOp = s.seqOp := rfl
@[simp] theorem emitCommand_seqStep (c : PanelCommand) (s : State) : (emitCommand c s).seqStep = s.seqStep := rfl
@[simp] theorem emitCommand_inflight (c : PanelCommand) (s : State) : (emitCommand c s).inflight = s.inflight := rfl
@[simp] theorem emitCommand_err (c : PanelCommand) (s : State) : (emitCommand c s).err = s.err := rfl
@[simp] theorem emitCommand_fault (c : PanelCommand) (s : State) : (emitCommand c s).fault = s.fault := rfl
@[simp] theorem emitCommand_faultCode (c : PanelCommand) (s : State) : (emitCommand c s).faultCode = s.faultCode := rfl
@[simp] theorem emitCommand_mode (c : PanelCommand) (s : State) : (emitCommand c s).mode = s.mode := rfl
@[simp] theorem emitCommand_bg (c : PanelCommand) (s : State) : (emitCommand c s).bg = s.bg := rfl
@[simp] theorem emitCommand_lifecycle (c : PanelCommand) (s : State) : (emitCommand c s).lifecycle = s.lifecycle := rfl
@[simp] theorem emitCommand_errCode (c : PanelCommand) (s : State) : (emitCommand c s).errCode = s.errCode := rfl
@[simp] theorem emitCommand_result (c : PanelCommand) (s : State) : (emitCommand c s).result = s.result := rfl
@[simp] theorem emitCommand_csN (c : PanelCommand) (s : State) : (emitCommand c s).csN = s.csN := rfl
@[simp] theorem emitCommand_dc (c : PanelCommand) (s : State) : (emitCommand c s).dc = s.dc := rfl
@[simp] theorem emitCommand_rstN (c : PanelCommand) (s : State) : (emitCommand c s).rstN = s.rstN := rfl
@[simp] theorem emitCommand_cyc (c : PanelCommand) (s : State) : (emitCommand c s).cyc = s.cyc := rfl
@[simp] theorem emitCommand_timer (c : PanelCommand) (s : State) : (emitCommand c s).timer = s.timer := rfl
@[simp] theorem emitCommand_trace (c : PanelCommand) (s : State) : (emitCommand c s).trace = s.trace ++ [.cmd (Config.code c)] := rfl
@[simp] theorem emitCommand_panel (c : PanelCommand) (s : State) : (emitCommand c s).panel = s.panel.command c := rfl
@[simp] theorem emitCommand_mem (c : PanelCommand) (s : State) : (emitCommand c s).mem = s.mem := rfl
@[simp] theorem emitCommand_drawn (c : PanelCommand) (s : State) : (emitCommand c s).drawn = s.drawn := rfl
@[simp] theorem emitCommand_cfg (c : PanelCommand) (s : State) : (emitCommand c s).cfg = s.cfg := rfl
@[simp] theorem emitCommand_tainted (c : PanelCommand) (s : State) : (emitCommand c s).tainted = s.tainted := rfl
@[simp] theorem emitCommand_prog (c : PanelCommand) (s : State) : (emitCommand c s).prog = s.prog := rfl
@[simp] theorem emitCommand_rdata (c : PanelCommand) (s : State) : (emitCommand c s).rdata = s.rdata := rfl
@[simp] theorem emitCommand_script (c : PanelCommand) (s : State) : (emitCommand c s).script = s.script := rfl
@[simp] theorem emitCommand_tick (c : PanelCommand) (s : State) : (emitCommand c s).tick = s.tick := rfl

/-! ### emitData -/

@[simp] theorem emitData_args (b : Byte) (s : State) : (emitData b s).args = s.args := rfl
@[simp] theorem emitData_latched (b : Byte) (s : State) : (emitData b s).latched = s.latched := rfl
@[simp] theorem emitData_seqOp (b : Byte) (s : State) : (emitData b s).seqOp = s.seqOp := rfl
@[simp] theorem emitData_seqStep (b : Byte) (s : State) : (emitData b s).seqStep = s.seqStep := rfl
@[simp] theorem emitData_inflight (b : Byte) (s : State) : (emitData b s).inflight = s.inflight := rfl
@[simp] theorem emitData_err (b : Byte) (s : State) : (emitData b s).err = s.err := rfl
@[simp] theorem emitData_fault (b : Byte) (s : State) : (emitData b s).fault = s.fault := rfl
@[simp] theorem emitData_faultCode (b : Byte) (s : State) : (emitData b s).faultCode = s.faultCode := rfl
@[simp] theorem emitData_mode (b : Byte) (s : State) : (emitData b s).mode = s.mode := rfl
@[simp] theorem emitData_bg (b : Byte) (s : State) : (emitData b s).bg = s.bg := rfl
@[simp] theorem emitData_lifecycle (b : Byte) (s : State) : (emitData b s).lifecycle = s.lifecycle := rfl
@[simp] theorem emitData_errCode (b : Byte) (s : State) : (emitData b s).errCode = s.errCode := rfl
@[simp] theorem emitData_result (b : Byte) (s : State) : (emitData b s).result = s.result := rfl
@[simp] theorem emitData_csN (b : Byte) (s : State) : (emitData b s).csN = s.csN := rfl
@[simp] theorem emitData_dc (b : Byte) (s : State) : (emitData b s).dc = s.dc := rfl
@[simp] theorem emitData_rstN (b : Byte) (s : State) : (emitData b s).rstN = s.rstN := rfl
@[simp] theorem emitData_cyc (b : Byte) (s : State) : (emitData b s).cyc = s.cyc := rfl
@[simp] theorem emitData_timer (b : Byte) (s : State) : (emitData b s).timer = s.timer := rfl
@[simp] theorem emitData_trace (b : Byte) (s : State) : (emitData b s).trace = s.trace ++ [.data b] := rfl
@[simp] theorem emitData_panel (b : Byte) (s : State) : (emitData b s).panel = s.panel.data b := rfl
@[simp] theorem emitData_mem (b : Byte) (s : State) : (emitData b s).mem = s.mem := rfl
@[simp] theorem emitData_drawn (b : Byte) (s : State) : (emitData b s).drawn = s.drawn := rfl
@[simp] theorem emitData_cfg (b : Byte) (s : State) : (emitData b s).cfg = s.cfg := rfl
@[simp] theorem emitData_tainted (b : Byte) (s : State) : (emitData b s).tainted = s.tainted := rfl
@[simp] theorem emitData_prog (b : Byte) (s : State) : (emitData b s).prog = s.prog := rfl
@[simp] theorem emitData_rdata (b : Byte) (s : State) : (emitData b s).rdata = s.rdata := rfl
@[simp] theorem emitData_script (b : Byte) (s : State) : (emitData b s).script = s.script := rfl
@[simp] theorem emitData_tick (b : Byte) (s : State) : (emitData b s).tick = s.tick := rfl

/-! ### advance -/

@[simp] theorem advance_args (k : Nat) (s : State) : (advance k s).args = s.args := rfl
@[simp] theorem advance_latched (k : Nat) (s : State) : (advance k s).latched = s.latched := rfl
@[simp] theorem advance_seqOp (k : Nat) (s : State) : (advance k s).seqOp = s.seqOp := rfl
@[simp] theorem advance_seqStep (k : Nat) (s : State) : (advance k s).seqStep = s.seqStep + k := rfl
@[simp] theorem advance_inflight (k : Nat) (s : State) : (advance k s).inflight = s.inflight := rfl
@[simp] theorem advance_err (k : Nat) (s : State) : (advance k s).err = s.err := rfl
@[simp] theorem advance_fault (k : Nat) (s : State) : (advance k s).fault = s.fault := rfl
@[simp] theorem advance_faultCode (k : Nat) (s : State) : (advance k s).faultCode = s.faultCode := rfl
@[simp] theorem advance_mode (k : Nat) (s : State) : (advance k s).mode = s.mode := rfl
@[simp] theorem advance_bg (k : Nat) (s : State) : (advance k s).bg = s.bg := rfl
@[simp] theorem advance_lifecycle (k : Nat) (s : State) : (advance k s).lifecycle = s.lifecycle := rfl
@[simp] theorem advance_errCode (k : Nat) (s : State) : (advance k s).errCode = s.errCode := rfl
@[simp] theorem advance_result (k : Nat) (s : State) : (advance k s).result = s.result := rfl
@[simp] theorem advance_csN (k : Nat) (s : State) : (advance k s).csN = s.csN := rfl
@[simp] theorem advance_dc (k : Nat) (s : State) : (advance k s).dc = s.dc := rfl
@[simp] theorem advance_rstN (k : Nat) (s : State) : (advance k s).rstN = s.rstN := rfl
@[simp] theorem advance_cyc (k : Nat) (s : State) : (advance k s).cyc = s.cyc := rfl
@[simp] theorem advance_timer (k : Nat) (s : State) : (advance k s).timer = s.timer := rfl
@[simp] theorem advance_trace (k : Nat) (s : State) : (advance k s).trace = s.trace := rfl
@[simp] theorem advance_panel (k : Nat) (s : State) : (advance k s).panel = s.panel := rfl
@[simp] theorem advance_mem (k : Nat) (s : State) : (advance k s).mem = s.mem := rfl
@[simp] theorem advance_drawn (k : Nat) (s : State) : (advance k s).drawn = s.drawn := rfl
@[simp] theorem advance_cfg (k : Nat) (s : State) : (advance k s).cfg = s.cfg := rfl
@[simp] theorem advance_tainted (k : Nat) (s : State) : (advance k s).tainted = s.tainted := rfl
@[simp] theorem advance_prog (k : Nat) (s : State) : (advance k s).prog = s.prog := rfl
@[simp] theorem advance_rdata (k : Nat) (s : State) : (advance k s).rdata = s.rdata := rfl
@[simp] theorem advance_script (k : Nat) (s : State) : (advance k s).script = s.script := rfl
@[simp] theorem advance_tick (k : Nat) (s : State) : (advance k s).tick = s.tick := rfl

/-! ### goBack -/

@[simp] theorem goBack_args (k : Nat) (s : State) : (goBack k s).args = s.args := rfl
@[simp] theorem goBack_latched (k : Nat) (s : State) : (goBack k s).latched = s.latched := rfl
@[simp] theorem goBack_seqOp (k : Nat) (s : State) : (goBack k s).seqOp = s.seqOp := rfl
@[simp] theorem goBack_seqStep (k : Nat) (s : State) : (goBack k s).seqStep = s.seqStep - k := rfl
@[simp] theorem goBack_inflight (k : Nat) (s : State) : (goBack k s).inflight = s.inflight := rfl
@[simp] theorem goBack_err (k : Nat) (s : State) : (goBack k s).err = s.err := rfl
@[simp] theorem goBack_fault (k : Nat) (s : State) : (goBack k s).fault = s.fault := rfl
@[simp] theorem goBack_faultCode (k : Nat) (s : State) : (goBack k s).faultCode = s.faultCode := rfl
@[simp] theorem goBack_mode (k : Nat) (s : State) : (goBack k s).mode = s.mode := rfl
@[simp] theorem goBack_bg (k : Nat) (s : State) : (goBack k s).bg = s.bg := rfl
@[simp] theorem goBack_lifecycle (k : Nat) (s : State) : (goBack k s).lifecycle = s.lifecycle := rfl
@[simp] theorem goBack_errCode (k : Nat) (s : State) : (goBack k s).errCode = s.errCode := rfl
@[simp] theorem goBack_result (k : Nat) (s : State) : (goBack k s).result = s.result := rfl
@[simp] theorem goBack_csN (k : Nat) (s : State) : (goBack k s).csN = s.csN := rfl
@[simp] theorem goBack_dc (k : Nat) (s : State) : (goBack k s).dc = s.dc := rfl
@[simp] theorem goBack_rstN (k : Nat) (s : State) : (goBack k s).rstN = s.rstN := rfl
@[simp] theorem goBack_cyc (k : Nat) (s : State) : (goBack k s).cyc = s.cyc := rfl
@[simp] theorem goBack_timer (k : Nat) (s : State) : (goBack k s).timer = s.timer := rfl
@[simp] theorem goBack_trace (k : Nat) (s : State) : (goBack k s).trace = s.trace := rfl
@[simp] theorem goBack_panel (k : Nat) (s : State) : (goBack k s).panel = s.panel := rfl
@[simp] theorem goBack_mem (k : Nat) (s : State) : (goBack k s).mem = s.mem := rfl
@[simp] theorem goBack_drawn (k : Nat) (s : State) : (goBack k s).drawn = s.drawn := rfl
@[simp] theorem goBack_cfg (k : Nat) (s : State) : (goBack k s).cfg = s.cfg := rfl
@[simp] theorem goBack_tainted (k : Nat) (s : State) : (goBack k s).tainted = s.tainted := rfl
@[simp] theorem goBack_prog (k : Nat) (s : State) : (goBack k s).prog = s.prog := rfl
@[simp] theorem goBack_rdata (k : Nat) (s : State) : (goBack k s).rdata = s.rdata := rfl
@[simp] theorem goBack_script (k : Nat) (s : State) : (goBack k s).script = s.script := rfl
@[simp] theorem goBack_tick (k : Nat) (s : State) : (goBack k s).tick = s.tick := rfl

/-! ### leaveOp -/

@[simp] theorem leaveOp_args (s : State) : (leaveOp s).args = s.args := rfl
@[simp] theorem leaveOp_latched (s : State) : (leaveOp s).latched = s.latched := rfl
@[simp] theorem leaveOp_seqOp (s : State) : (leaveOp s).seqOp = none := rfl
@[simp] theorem leaveOp_seqStep (s : State) : (leaveOp s).seqStep = 0 := rfl
@[simp] theorem leaveOp_inflight (s : State) : (leaveOp s).inflight = false := rfl
@[simp] theorem leaveOp_err (s : State) : (leaveOp s).err = s.err := rfl
@[simp] theorem leaveOp_fault (s : State) : (leaveOp s).fault = s.fault := rfl
@[simp] theorem leaveOp_faultCode (s : State) : (leaveOp s).faultCode = s.faultCode := rfl
@[simp] theorem leaveOp_mode (s : State) : (leaveOp s).mode = s.mode := rfl
@[simp] theorem leaveOp_bg (s : State) : (leaveOp s).bg = s.bg := rfl
@[simp] theorem leaveOp_lifecycle (s : State) : (leaveOp s).lifecycle = s.lifecycle := rfl
@[simp] theorem leaveOp_errCode (s : State) : (leaveOp s).errCode = s.errCode := rfl
@[simp] theorem leaveOp_result (s : State) : (leaveOp s).result = s.result := rfl
@[simp] theorem leaveOp_csN (s : State) : (leaveOp s).csN = s.csN := rfl
@[simp] theorem leaveOp_dc (s : State) : (leaveOp s).dc = s.dc := rfl
@[simp] theorem leaveOp_rstN (s : State) : (leaveOp s).rstN = s.rstN := rfl
@[simp] theorem leaveOp_cyc (s : State) : (leaveOp s).cyc = none := rfl
@[simp] theorem leaveOp_timer (s : State) : (leaveOp s).timer = none := rfl
@[simp] theorem leaveOp_trace (s : State) : (leaveOp s).trace = s.trace := rfl
@[simp] theorem leaveOp_panel (s : State) : (leaveOp s).panel = s.panel := rfl
@[simp] theorem leaveOp_mem (s : State) : (leaveOp s).mem = s.mem := rfl
@[simp] theorem leaveOp_drawn (s : State) : (leaveOp s).drawn = s.drawn := rfl
@[simp] theorem leaveOp_cfg (s : State) : (leaveOp s).cfg = s.cfg := rfl
@[simp] theorem leaveOp_tainted (s : State) : (leaveOp s).tainted = [] := rfl
@[simp] theorem leaveOp_prog (s : State) : (leaveOp s).prog = s.prog := rfl
@[simp] theorem leaveOp_rdata (s : State) : (leaveOp s).rdata = s.rdata := rfl
@[simp] theorem leaveOp_script (s : State) : (leaveOp s).script = s.script := rfl
@[simp] theorem leaveOp_tick (s : State) : (leaveOp s).tick = s.tick := rfl

/-! ### raiseFault -/

@[simp] theorem raiseFault_args (c : BitVec 4) (s : State) : (raiseFault c s).args = s.args := rfl
@[simp] theorem raiseFault_latched (c : BitVec 4) (s : State) : (raiseFault c s).latched = s.latched := rfl
@[simp] theorem raiseFault_seqOp (c : BitVec 4) (s : State) : (raiseFault c s).seqOp = none := rfl
@[simp] theorem raiseFault_seqStep (c : BitVec 4) (s : State) : (raiseFault c s).seqStep = 0 := rfl
@[simp] theorem raiseFault_inflight (c : BitVec 4) (s : State) : (raiseFault c s).inflight = false := rfl
@[simp] theorem raiseFault_err (c : BitVec 4) (s : State) : (raiseFault c s).err = s.err := rfl
@[simp] theorem raiseFault_fault (c : BitVec 4) (s : State) : (raiseFault c s).fault = true := rfl
@[simp] theorem raiseFault_faultCode (c : BitVec 4) (s : State) : (raiseFault c s).faultCode = c := rfl
@[simp] theorem raiseFault_mode (c : BitVec 4) (s : State) : (raiseFault c s).mode = s.mode := rfl
@[simp] theorem raiseFault_bg (c : BitVec 4) (s : State) : (raiseFault c s).bg = s.bg := rfl
@[simp] theorem raiseFault_lifecycle (c : BitVec 4) (s : State) : (raiseFault c s).lifecycle = s.lifecycle := rfl
@[simp] theorem raiseFault_errCode (c : BitVec 4) (s : State) : (raiseFault c s).errCode = s.errCode := rfl
@[simp] theorem raiseFault_result (c : BitVec 4) (s : State) : (raiseFault c s).result = s.result := rfl
@[simp] theorem raiseFault_csN (c : BitVec 4) (s : State) : (raiseFault c s).csN = s.csN := rfl
@[simp] theorem raiseFault_dc (c : BitVec 4) (s : State) : (raiseFault c s).dc = s.dc := rfl
@[simp] theorem raiseFault_rstN (c : BitVec 4) (s : State) : (raiseFault c s).rstN = s.rstN := rfl
@[simp] theorem raiseFault_cyc (c : BitVec 4) (s : State) : (raiseFault c s).cyc = none := rfl
@[simp] theorem raiseFault_timer (c : BitVec 4) (s : State) : (raiseFault c s).timer = none := rfl
@[simp] theorem raiseFault_trace (c : BitVec 4) (s : State) : (raiseFault c s).trace = s.trace := rfl
@[simp] theorem raiseFault_panel (c : BitVec 4) (s : State) : (raiseFault c s).panel = s.panel := rfl
@[simp] theorem raiseFault_mem (c : BitVec 4) (s : State) : (raiseFault c s).mem = s.mem := rfl
@[simp] theorem raiseFault_drawn (c : BitVec 4) (s : State) : (raiseFault c s).drawn = s.drawn := rfl
@[simp] theorem raiseFault_cfg (c : BitVec 4) (s : State) : (raiseFault c s).cfg = s.cfg := rfl
@[simp] theorem raiseFault_tainted (c : BitVec 4) (s : State) : (raiseFault c s).tainted = [] := rfl
@[simp] theorem raiseFault_prog (c : BitVec 4) (s : State) : (raiseFault c s).prog = s.prog := rfl
@[simp] theorem raiseFault_rdata (c : BitVec 4) (s : State) : (raiseFault c s).rdata = s.rdata := rfl
@[simp] theorem raiseFault_script (c : BitVec 4) (s : State) : (raiseFault c s).script = s.script := rfl
@[simp] theorem raiseFault_tick (c : BitVec 4) (s : State) : (raiseFault c s).tick = s.tick := rfl

/-! ### raiseReentrant -/

@[simp] theorem raiseReentrant_args (s : State) : (raiseReentrant s).args = s.args := rfl
@[simp] theorem raiseReentrant_latched (s : State) : (raiseReentrant s).latched = s.latched := rfl
@[simp] theorem raiseReentrant_seqOp (s : State) : (raiseReentrant s).seqOp = none := rfl
@[simp] theorem raiseReentrant_seqStep (s : State) : (raiseReentrant s).seqStep = 0 := rfl
@[simp] theorem raiseReentrant_inflight (s : State) : (raiseReentrant s).inflight = false := rfl
@[simp] theorem raiseReentrant_err (s : State) : (raiseReentrant s).err = s.err := rfl
@[simp] theorem raiseReentrant_fault (s : State) : (raiseReentrant s).fault = true := rfl
@[simp] theorem raiseReentrant_faultCode (s : State) : (raiseReentrant s).faultCode = codeReentrant := rfl
@[simp] theorem raiseReentrant_mode (s : State) : (raiseReentrant s).mode = s.mode := rfl
@[simp] theorem raiseReentrant_bg (s : State) : (raiseReentrant s).bg = s.bg := rfl
@[simp] theorem raiseReentrant_lifecycle (s : State) : (raiseReentrant s).lifecycle = s.lifecycle := rfl
@[simp] theorem raiseReentrant_errCode (s : State) : (raiseReentrant s).errCode = s.errCode := rfl
@[simp] theorem raiseReentrant_result (s : State) : (raiseReentrant s).result = s.result := rfl
@[simp] theorem raiseReentrant_csN (s : State) : (raiseReentrant s).csN = true := rfl
@[simp] theorem raiseReentrant_dc (s : State) : (raiseReentrant s).dc = s.dc := rfl
@[simp] theorem raiseReentrant_rstN (s : State) : (raiseReentrant s).rstN = s.rstN := rfl
@[simp] theorem raiseReentrant_cyc (s : State) : (raiseReentrant s).cyc = none := rfl
@[simp] theorem raiseReentrant_timer (s : State) : (raiseReentrant s).timer = none := rfl
@[simp] theorem raiseReentrant_trace (s : State) : (raiseReentrant s).trace = s.trace := rfl
@[simp] theorem raiseReentrant_panel (s : State) : (raiseReentrant s).panel = s.panel := rfl
@[simp] theorem raiseReentrant_mem (s : State) : (raiseReentrant s).mem = s.mem := rfl
@[simp] theorem raiseReentrant_drawn (s : State) : (raiseReentrant s).drawn = s.drawn := rfl
@[simp] theorem raiseReentrant_cfg (s : State) : (raiseReentrant s).cfg = s.cfg := rfl
@[simp] theorem raiseReentrant_tainted (s : State) : (raiseReentrant s).tainted = [] := rfl
@[simp] theorem raiseReentrant_prog (s : State) : (raiseReentrant s).prog = s.prog := rfl
@[simp] theorem raiseReentrant_rdata (s : State) : (raiseReentrant s).rdata = s.rdata := rfl
@[simp] theorem raiseReentrant_script (s : State) : (raiseReentrant s).script = s.script := rfl
@[simp] theorem raiseReentrant_tick (s : State) : (raiseReentrant s).tick = s.tick := rfl

/-! ### abortErr -/

@[simp] theorem abortErr_args (e : Nat) (s : State) : (abortErr e s).args = s.args := rfl
@[simp] theorem abortErr_latched (e : Nat) (s : State) : (abortErr e s).latched = s.latched := rfl
@[simp] theorem abortErr_seqOp (e : Nat) (s : State) : (abortErr e s).seqOp = none := rfl
@[simp] theorem abortErr_seqStep (e : Nat) (s : State) : (abortErr e s).seqStep = 0 := rfl
@[simp] theorem abortErr_inflight (e : Nat) (s : State) : (abortErr e s).inflight = false := rfl
@[simp] theorem abortErr_err (e : Nat) (s : State) : (abortErr e s).err = true := rfl
@[simp] theorem abortErr_fault (e : Nat) (s : State) : (abortErr e s).fault = s.fault := rfl
@[simp] theorem abortErr_faultCode (e : Nat) (s : State) : (abortErr e s).faultCode = s.faultCode := rfl
@[simp] theorem abortErr_mode (e : Nat) (s : State) : (abortErr e s).mode = s.mode := rfl
@[simp] theorem abortErr_bg (e : Nat) (s : State) : (abortErr e s).bg = s.bg := rfl
@[simp] theorem abortErr_lifecycle (e : Nat) (s : State) : (abortErr e s).lifecycle = .indeterminate := rfl
@[simp] theorem abortErr_errCode (e : Nat) (s : State) : (abortErr e s).errCode = errCodeOf e := rfl
@[simp] theorem abortErr_result (e : Nat) (s : State) : (abortErr e s).result = s.result := rfl
@[simp] theorem abortErr_csN (e : Nat) (s : State) : (abortErr e s).csN = s.csN := rfl
@[simp] theorem abortErr_dc (e : Nat) (s : State) : (abortErr e s).dc = s.dc := rfl
@[simp] theorem abortErr_rstN (e : Nat) (s : State) : (abortErr e s).rstN = s.rstN := rfl
@[simp] theorem abortErr_cyc (e : Nat) (s : State) : (abortErr e s).cyc = none := rfl
@[simp] theorem abortErr_timer (e : Nat) (s : State) : (abortErr e s).timer = none := rfl
@[simp] theorem abortErr_trace (e : Nat) (s : State) : (abortErr e s).trace = s.trace := rfl
@[simp] theorem abortErr_panel (e : Nat) (s : State) : (abortErr e s).panel = s.panel := rfl
@[simp] theorem abortErr_mem (e : Nat) (s : State) : (abortErr e s).mem = s.mem := rfl
@[simp] theorem abortErr_drawn (e : Nat) (s : State) : (abortErr e s).drawn = s.drawn := rfl
@[simp] theorem abortErr_cfg (e : Nat) (s : State) : (abortErr e s).cfg = s.cfg := rfl
@[simp] theorem abortErr_tainted (e : Nat) (s : State) : (abortErr e s).tainted = [] := rfl
@[simp] theorem abortErr_prog (e : Nat) (s : State) : (abortErr e s).prog = s.prog := rfl
@[simp] theorem abortErr_rdata (e : Nat) (s : State) : (abortErr e s).rdata = s.rdata := rfl
@[simp] theorem abortErr_script (e : Nat) (s : State) : (abortErr e s).script = s.script := rfl
@[simp] theorem abortErr_tick (e : Nat) (s : State) : (abortErr e s).tick = s.tick := rfl

/-! ### startOp -/

@[simp] theorem startOp_args (i : Instr) (s : State) : (startOp i s).args = s.args := rfl
@[simp] theorem startOp_latched (i : Instr) (s : State) : (startOp i s).latched = s.args := rfl
@[simp] theorem startOp_seqOp (i : Instr) (s : State) : (startOp i s).seqOp = some i := rfl
@[simp] theorem startOp_seqStep (i : Instr) (s : State) : (startOp i s).seqStep = 0 := rfl
@[simp] theorem startOp_inflight (i : Instr) (s : State) : (startOp i s).inflight = true := rfl
@[simp] theorem startOp_err (i : Instr) (s : State) : (startOp i s).err = false := rfl
@[simp] theorem startOp_fault (i : Instr) (s : State) : (startOp i s).fault = s.fault := rfl
@[simp] theorem startOp_faultCode (i : Instr) (s : State) : (startOp i s).faultCode = s.faultCode := rfl
@[simp] theorem startOp_mode (i : Instr) (s : State) : (startOp i s).mode = s.mode := rfl
@[simp] theorem startOp_bg (i : Instr) (s : State) : (startOp i s).bg = s.bg := rfl
@[simp] theorem startOp_lifecycle (i : Instr) (s : State) : (startOp i s).lifecycle = s.lifecycle := rfl
@[simp] theorem startOp_errCode (i : Instr) (s : State) : (startOp i s).errCode = s.errCode := rfl
@[simp] theorem startOp_result (i : Instr) (s : State) : (startOp i s).result = s.result := rfl
@[simp] theorem startOp_csN (i : Instr) (s : State) : (startOp i s).csN = s.csN := rfl
@[simp] theorem startOp_dc (i : Instr) (s : State) : (startOp i s).dc = s.dc := rfl
@[simp] theorem startOp_rstN (i : Instr) (s : State) : (startOp i s).rstN = s.rstN := rfl
@[simp] theorem startOp_cyc (i : Instr) (s : State) : (startOp i s).cyc = s.cyc := rfl
@[simp] theorem startOp_timer (i : Instr) (s : State) : (startOp i s).timer = s.timer := rfl
@[simp] theorem startOp_trace (i : Instr) (s : State) : (startOp i s).trace = s.trace := rfl
@[simp] theorem startOp_panel (i : Instr) (s : State) : (startOp i s).panel = s.panel := rfl
@[simp] theorem startOp_mem (i : Instr) (s : State) : (startOp i s).mem = s.mem := rfl
@[simp] theorem startOp_drawn (i : Instr) (s : State) : (startOp i s).drawn = s.drawn := rfl
@[simp] theorem startOp_cfg (i : Instr) (s : State) : (startOp i s).cfg = s.cfg := rfl
@[simp] theorem startOp_tainted (i : Instr) (s : State) : (startOp i s).tainted = s.tainted := rfl
@[simp] theorem startOp_prog (i : Instr) (s : State) : (startOp i s).prog = s.prog := rfl
@[simp] theorem startOp_rdata (i : Instr) (s : State) : (startOp i s).rdata = s.rdata := rfl
@[simp] theorem startOp_script (i : Instr) (s : State) : (startOp i s).script = s.script := rfl
@[simp] theorem startOp_tick (i : Instr) (s : State) : (startOp i s).tick = s.tick := rfl

/-! ### toPhase -/

@[simp] theorem toPhase_args (c : Cycle) (ph : Phase) (s : State) : (toPhase c ph s).args = s.args := rfl
@[simp] theorem toPhase_latched (c : Cycle) (ph : Phase) (s : State) : (toPhase c ph s).latched = s.latched := rfl
@[simp] theorem toPhase_seqOp (c : Cycle) (ph : Phase) (s : State) : (toPhase c ph s).seqOp = s.seqOp := rfl
@[simp] theorem toPhase_seqStep (c : Cycle) (ph : Phase) (s : State) : (toPhase c ph s).seqStep = s.seqStep := rfl
@[simp] theorem toPhase_inflight (c : Cycle) (ph : Phase) (s : State) : (toPhase c ph s).inflight = s.inflight := rfl
@[simp] theorem toPhase_err (c : Cycle) (ph : Phase) (s : State) : (toPhase c ph s).err = s.err := rfl
@[simp] theorem toPhase_fault (c : Cycle) (ph : Phase) (s : State) : (toPhase c ph s).fault = s.fault := rfl
@[simp] theorem toPhase_faultCode (c : Cycle) (ph : Phase) (s : State) : (toPhase c ph s).faultCode = s.faultCode := rfl
@[simp] theorem toPhase_mode (c : Cycle) (ph : Phase) (s : State) : (toPhase c ph s).mode = s.mode := rfl
@[simp] theorem toPhase_bg (c : Cycle) (ph : Phase) (s : State) : (toPhase c ph s).bg = s.bg := rfl
@[simp] theorem toPhase_lifecycle (c : Cycle) (ph : Phase) (s : State) : (toPhase c ph s).lifecycle = s.lifecycle := rfl
@[simp] theorem toPhase_errCode (c : Cycle) (ph : Phase) (s : State) : (toPhase c ph s).errCode = s.errCode := rfl
@[simp] theorem toPhase_result (c : Cycle) (ph : Phase) (s : State) : (toPhase c ph s).result = s.result := rfl
@[simp] theorem toPhase_csN (c : Cycle) (ph : Phase) (s : State) : (toPhase c ph s).csN = s.csN := rfl
@[simp] theorem toPhase_dc (c : Cycle) (ph : Phase) (s : State) : (toPhase c ph s).dc = s.dc := rfl
@[simp] theorem toPhase_rstN (c : Cycle) (ph : Phase) (s : State) : (toPhase c ph s).rstN = s.rstN := rfl
@[simp] theorem toPhase_cyc (c : Cycle) (ph : Phase) (s : State) : (toPhase c ph s).cyc = some { c with phase := ph } := rfl
@[simp] theorem toPhase_timer (c : Cycle) (ph : Phase) (s : State) : (toPhase c ph s).timer = s.timer := rfl
@[simp] theorem toPhase_trace (c : Cycle) (ph : Phase) (s : State) : (toPhase c ph s).trace = s.trace := rfl
@[simp] theorem toPhase_panel (c : Cycle) (ph : Phase) (s : State) : (toPhase c ph s).panel = s.panel := rfl
@[simp] theorem toPhase_mem (c : Cycle) (ph : Phase) (s : State) : (toPhase c ph s).mem = s.mem := rfl
@[simp] theorem toPhase_drawn (c : Cycle) (ph : Phase) (s : State) : (toPhase c ph s).drawn = s.drawn := rfl
@[simp] theorem toPhase_cfg (c : Cycle) (ph : Phase) (s : State) : (toPhase c ph s).cfg = s.cfg := rfl
@[simp] theorem toPhase_tainted (c : Cycle) (ph : Phase) (s : State) : (toPhase c ph s).tainted = s.tainted := rfl
@[simp] theorem toPhase_prog (c : Cycle) (ph : Phase) (s : State) : (toPhase c ph s).prog = s.prog := rfl
@[simp] theorem toPhase_rdata (c : Cycle) (ph : Phase) (s : State) : (toPhase c ph s).rdata = s.rdata := rfl
@[simp] theorem toPhase_script (c : Cycle) (ph : Phase) (s : State) : (toPhase c ph s).script = s.script := rfl
@[simp] theorem toPhase_tick (c : Cycle) (ph : Phase) (s : State) : (toPhase c ph s).tick = s.tick := rfl

/-! ### endCycle -/

@[simp] theorem endCycle_args (s : State) : (endCycle s).args = s.args := rfl
@[simp] theorem endCycle_latched (s : State) : (endCycle s).latched = s.latched := rfl
@[simp] theorem endCycle_seqOp (s : State) : (endCycle s).seqOp = s.seqOp := rfl
@[simp] theorem endCycle_seqStep (s : State) : (endCycle s).seqStep = s.seqStep + 1 := rfl
@[simp] theorem endCycle_inflight (s : State) : (endCycle s).inflight = s.inflight := rfl
@[simp] theorem endCycle_err (s : State) : (endCycle s).err = s.err := rfl
@[simp] theorem endCycle_fault (s : State) : (endCycle s).fault = s.fault := rfl
@[simp] theorem endCycle_faultCode (s : State) : (endCycle s).faultCode = s.faultCode := rfl
@[simp] theorem endCycle_mode (s : State) : (endCycle s).mode = s.mode := rfl
@[simp] theorem endCycle_bg (s : State) : (endCycle s).bg = s.bg := rfl
@[simp] theorem endCycle_lifecycle (s : State) : (endCycle s).lifecycle = s.lifecycle := rfl
@[simp] theorem endCycle_errCode (s : State) : (endCycle s).errCode = s.errCode := rfl
@[simp] theorem endCycle_result (s : State) : (endCycle s).result = s.result := rfl
@[simp] theorem endCycle_csN (s : State) : (endCycle s).csN = s.csN := rfl
@[simp] theorem endCycle_dc (s : State) : (endCycle s).dc = s.dc := rfl
@[simp] theorem endCycle_rstN (s : State) : (endCycle s).rstN = s.rstN := rfl
@[simp] theorem endCycle_cyc (s : State) : (endCycle s).cyc = none := rfl
@[simp] theorem endCycle_timer (s : State) : (endCycle s).timer = s.timer := rfl
@[simp] theorem endCycle_trace (s : State) : (endCycle s).trace = s.trace := rfl
@[simp] theorem endCycle_panel (s : State) : (endCycle s).panel = s.panel := rfl
@[simp] theorem endCycle_mem (s : State) : (endCycle s).mem = s.mem := rfl
@[simp] theorem endCycle_drawn (s : State) : (endCycle s).drawn = s.drawn := rfl
@[simp] theorem endCycle_cfg (s : State) : (endCycle s).cfg = s.cfg := rfl
@[simp] theorem endCycle_tainted (s : State) : (endCycle s).tainted = s.tainted := rfl
@[simp] theorem endCycle_prog (s : State) : (endCycle s).prog = s.prog := rfl
@[simp] theorem endCycle_rdata (s : State) : (endCycle s).rdata = s.rdata := rfl
@[simp] theorem endCycle_script (s : State) : (endCycle s).script = s.script := rfl
@[simp] theorem endCycle_tick (s : State) : (endCycle s).tick = s.tick := rfl

/-! ### timerMove -/

@[simp] theorem timerMove_args (s : State) : (timerMove s).args = s.args := rfl
@[simp] theorem timerMove_latched (s : State) : (timerMove s).latched = s.latched := rfl
@[simp] theorem timerMove_seqOp (s : State) : (timerMove s).seqOp = s.seqOp := rfl
@[simp] theorem timerMove_seqStep (s : State) : (timerMove s).seqStep = s.seqStep := rfl
@[simp] theorem timerMove_inflight (s : State) : (timerMove s).inflight = s.inflight := rfl
@[simp] theorem timerMove_err (s : State) : (timerMove s).err = s.err := rfl
@[simp] theorem timerMove_fault (s : State) : (timerMove s).fault = s.fault := rfl
@[simp] theorem timerMove_faultCode (s : State) : (timerMove s).faultCode = s.faultCode := rfl
@[simp] theorem timerMove_mode (s : State) : (timerMove s).mode = s.mode := rfl
@[simp] theorem timerMove_bg (s : State) : (timerMove s).bg = s.bg := rfl
@[simp] theorem timerMove_lifecycle (s : State) : (timerMove s).lifecycle = s.lifecycle := rfl
@[simp] theorem timerMove_errCode (s : State) : (timerMove s).errCode = s.errCode := rfl
@[simp] theorem timerMove_result (s : State) : (timerMove s).result = s.result := rfl
@[simp] theorem timerMove_csN (s : State) : (timerMove s).csN = s.csN := rfl
@[simp] theorem timerMove_dc (s : State) : (timerMove s).dc = s.dc := rfl
@[simp] theorem timerMove_rstN (s : State) : (timerMove s).rstN = s.rstN := rfl
@[simp] theorem timerMove_cyc (s : State) : (timerMove s).cyc = s.cyc := rfl
@[simp] theorem timerMove_timer (s : State) : (timerMove s).timer = none := rfl
@[simp] theorem timerMove_trace (s : State) : (timerMove s).trace = s.trace := rfl
@[simp] theorem timerMove_panel (s : State) : (timerMove s).panel = s.panel := rfl
@[simp] theorem timerMove_mem (s : State) : (timerMove s).mem = s.mem := rfl
@[simp] theorem timerMove_drawn (s : State) : (timerMove s).drawn = s.drawn := rfl
@[simp] theorem timerMove_cfg (s : State) : (timerMove s).cfg = s.cfg := rfl
@[simp] theorem timerMove_tainted (s : State) : (timerMove s).tainted = s.tainted := rfl
@[simp] theorem timerMove_prog (s : State) : (timerMove s).prog = s.prog := rfl
@[simp] theorem timerMove_rdata (s : State) : (timerMove s).rdata = s.rdata := rfl
@[simp] theorem timerMove_script (s : State) : (timerMove s).script = s.script := rfl
@[simp] theorem timerMove_tick (s : State) : (timerMove s).tick = s.tick := rfl

/-! ### finishInitStep -/

@[simp] theorem finishInitStep_args (s : State) : (finishInitStep s).args = s.args := rfl
@[simp] theorem finishInitStep_latched (s : State) : (finishInitStep s).latched = s.latched := rfl
@[simp] theorem finishInitStep_seqOp (s : State) : (finishInitStep s).seqOp = none := rfl
@[simp] theorem finishInitStep_seqStep (s : State) : (finishInitStep s).seqStep = 0 := rfl
@[simp] theorem finishInitStep_inflight (s : State) : (finishInitStep s).inflight = false := rfl
@[simp] theorem finishInitStep_err (s : State) : (finishInitStep s).err = s.err := rfl
@[simp] theorem finishInitStep_fault (s : State) : (finishInitStep s).fault = s.fault := rfl
@[simp] theorem finishInitStep_faultCode (s : State) : (finishInitStep s).faultCode = s.faultCode := rfl
@[simp] theorem finishInitStep_mode (s : State) : (finishInitStep s).mode = s.mode := rfl
@[simp] theorem finishInitStep_bg (s : State) : (finishInitStep s).bg = s.bg := rfl
@[simp] theorem finishInitStep_lifecycle (s : State) : (finishInitStep s).lifecycle = .ready := rfl
@[simp] theorem finishInitStep_errCode (s : State) : (finishInitStep s).errCode = s.errCode := rfl
@[simp] theorem finishInitStep_result (s : State) : (finishInitStep s).result = s.result := rfl
@[simp] theorem finishInitStep_csN (s : State) : (finishInitStep s).csN = s.csN := rfl
@[simp] theorem finishInitStep_dc (s : State) : (finishInitStep s).dc = s.dc := rfl
@[simp] theorem finishInitStep_rstN (s : State) : (finishInitStep s).rstN = s.rstN := rfl
@[simp] theorem finishInitStep_cyc (s : State) : (finishInitStep s).cyc = none := rfl
@[simp] theorem finishInitStep_timer (s : State) : (finishInitStep s).timer = none := rfl
@[simp] theorem finishInitStep_trace (s : State) : (finishInitStep s).trace = s.trace := rfl
@[simp] theorem finishInitStep_panel (s : State) : (finishInitStep s).panel = s.panel := rfl
@[simp] theorem finishInitStep_mem (s : State) : (finishInitStep s).mem = s.mem := rfl
@[simp] theorem finishInitStep_drawn (s : State) : (finishInitStep s).drawn = s.drawn := rfl
@[simp] theorem finishInitStep_cfg (s : State) : (finishInitStep s).cfg = s.cfg := rfl
@[simp] theorem finishInitStep_tainted (s : State) : (finishInitStep s).tainted = [] := rfl
@[simp] theorem finishInitStep_prog (s : State) : (finishInitStep s).prog = s.prog := rfl
@[simp] theorem finishInitStep_rdata (s : State) : (finishInitStep s).rdata = s.rdata := rfl
@[simp] theorem finishInitStep_script (s : State) : (finishInitStep s).script = s.script := rfl
@[simp] theorem finishInitStep_tick (s : State) : (finishInitStep s).tick = s.tick := rfl

/-! ### setBackgroundStep -/

@[simp] theorem setBackgroundStep_args (c : Color) (s : State) : (setBackgroundStep c s).args = s.args := rfl
@[simp] theorem setBackgroundStep_latched (c : Color) (s : State) : (setBackgroundStep c s).latched = s.latched := rfl
@[simp] theorem setBackgroundStep_seqOp (c : Color) (s : State) : (setBackgroundStep c s).seqOp = none := rfl
@[simp] theorem setBackgroundStep_seqStep (c : Color) (s : State) : (setBackgroundStep c s).seqStep = 0 := rfl
@[simp] theorem setBackgroundStep_inflight (c : Color) (s : State) : (setBackgroundStep c s).inflight = false := rfl
@[simp] theorem setBackgroundStep_err (c : Color) (s : State) : (setBackgroundStep c s).err = s.err := rfl
@[simp] theorem setBackgroundStep_fault (c : Color) (s : State) : (setBackgroundStep c s).fault = s.fault := rfl
@[simp] theorem setBackgroundStep_faultCode (c : Color) (s : State) : (setBackgroundStep c s).faultCode = s.faultCode := rfl
@[simp] theorem setBackgroundStep_mode (c : Color) (s : State) : (setBackgroundStep c s).mode = s.mode := rfl
@[simp] theorem setBackgroundStep_bg (c : Color) (s : State) : (setBackgroundStep c s).bg = c := rfl
@[simp] theorem setBackgroundStep_lifecycle (c : Color) (s : State) : (setBackgroundStep c s).lifecycle = s.lifecycle := rfl
@[simp] theorem setBackgroundStep_errCode (c : Color) (s : State) : (setBackgroundStep c s).errCode = s.errCode := rfl
@[simp] theorem setBackgroundStep_result (c : Color) (s : State) : (setBackgroundStep c s).result = s.result := rfl
@[simp] theorem setBackgroundStep_csN (c : Color) (s : State) : (setBackgroundStep c s).csN = s.csN := rfl
@[simp] theorem setBackgroundStep_dc (c : Color) (s : State) : (setBackgroundStep c s).dc = s.dc := rfl
@[simp] theorem setBackgroundStep_rstN (c : Color) (s : State) : (setBackgroundStep c s).rstN = s.rstN := rfl
@[simp] theorem setBackgroundStep_cyc (c : Color) (s : State) : (setBackgroundStep c s).cyc = none := rfl
@[simp] theorem setBackgroundStep_timer (c : Color) (s : State) : (setBackgroundStep c s).timer = none := rfl
@[simp] theorem setBackgroundStep_trace (c : Color) (s : State) : (setBackgroundStep c s).trace = s.trace := rfl
@[simp] theorem setBackgroundStep_panel (c : Color) (s : State) : (setBackgroundStep c s).panel = s.panel := rfl
@[simp] theorem setBackgroundStep_mem (c : Color) (s : State) : (setBackgroundStep c s).mem = s.mem := rfl
@[simp] theorem setBackgroundStep_drawn (c : Color) (s : State) : (setBackgroundStep c s).drawn = s.drawn := rfl
@[simp] theorem setBackgroundStep_cfg (c : Color) (s : State) : (setBackgroundStep c s).cfg = s.cfg := rfl
@[simp] theorem setBackgroundStep_tainted (c : Color) (s : State) : (setBackgroundStep c s).tainted = [] := rfl
@[simp] theorem setBackgroundStep_prog (c : Color) (s : State) : (setBackgroundStep c s).prog = s.prog := rfl
@[simp] theorem setBackgroundStep_rdata (c : Color) (s : State) : (setBackgroundStep c s).rdata = s.rdata := rfl
@[simp] theorem setBackgroundStep_script (c : Color) (s : State) : (setBackgroundStep c s).script = s.script := rfl
@[simp] theorem setBackgroundStep_tick (c : Color) (s : State) : (setBackgroundStep c s).tick = s.tick := rfl

end Sys2Proof.Machine
end

