-- ==== Sys2Proof/Laws/Memory.lean ====
section
/-! SUPPORT. Host memory: the canonical form is kept, a read after a write gives the byte written, every other address
keeps its byte; and what reading and storing can do. -/

namespace Sys2Proof.Machine

theorem Memory.wf_cons {a : Nat} {b : Byte} {m : Memory} :
    Memory.wf ((a, b) :: m) = true ↔ a < 2 ^ 32 ∧ (∀ c ∈ m, a < c.1) ∧ Memory.wf m = true := by
  simp [Memory.wf, and_assoc]

theorem Memory.mem_write {m : Memory} {k : Nat} {v : Byte} {c : Host.Cell} (h : c ∈ Memory.write m k v) :
    c = (k, v) ∨ c ∈ m := by
  induction m with
  | nil => simpa [Memory.write] using h
  | cons x m ih =>
    obtain ⟨a, b⟩ := x
    simp only [Memory.write] at h
    split at h
    · simpa using h
    · split at h
      · rename_i hk; subst hk; rcases List.mem_cons.1 h with h | h
        · exact .inl h
        · exact .inr (List.mem_cons_of_mem _ h)
      · rcases List.mem_cons.1 h with h | h
        · exact .inr (h ▸ List.mem_cons_self)
        · exact (ih h).imp id (List.mem_cons_of_mem _)

/-- A write keeps the canonical form. -/
theorem Memory.wf_write {m : Memory} (h : Memory.wf m = true) {k : Nat} (hk : k < 2 ^ 32) (v : Byte) :
    Memory.wf (Memory.write m k v) = true := by
  induction m with
  | nil => simpa [Memory.write, Memory.wf] using hk
  | cons x m ih =>
    obtain ⟨a, b⟩ := x
    rw [Memory.wf_cons] at h
    simp only [Memory.write]
    split
    · rename_i hlt
      refine Memory.wf_cons.2 ⟨hk, fun c hc => ?_, Memory.wf_cons.2 h⟩
      rcases List.mem_cons.1 hc with rfl | hc
      · exact hlt
      · exact hlt.trans (h.2.1 c hc)
    · split
      · exact Memory.wf_cons.2 h
      · rename_i h1 h2
        refine Memory.wf_cons.2 ⟨h.1, fun c hc => ?_, ih h.2.2⟩
        rcases Memory.mem_write hc with rfl | hc
        · simp only; omega
        · exact h.2.1 c hc

/-- A read after a write to the same address gives the byte written. -/
theorem Memory.read_write_same (m : Memory) (k : Nat) (v : Byte) :
    Memory.read? (Memory.write m k v) k = some v := by
  induction m with
  | nil => simp [Memory.write, Memory.read?]
  | cons x m ih =>
    obtain ⟨a, b⟩ := x
    simp only [Memory.write]
    split
    · simp [Memory.read?]
    · split
      · rename_i hk; simp [Memory.read?, hk]
      · rename_i h1 h2; simpa [Memory.read?, h2] using ih

/-- A write leaves every other address alone. -/
theorem Memory.read_write_other (m : Memory) {k j : Nat} (v : Byte) (hj : j ≠ k) :
    Memory.read? (Memory.write m k v) j = Memory.read? m j := by
  induction m with
  | nil => simp [Memory.write, Memory.read?, hj]
  | cons x m ih =>
    obtain ⟨a, b⟩ := x
    simp only [Memory.write]
    split
    · simp [Memory.read?, hj]
    · split
      · rename_i hk; subst hk; simp [Memory.read?, hj]
      · simp [Memory.read?, ih]

/-- Taking a byte off leaves every other address alone. -/
theorem Memory.read_erase_other (m : Memory) {k j : Nat} (hj : j ≠ k) :
    Memory.read? (Memory.erase m k) j = Memory.read? m j := by
  induction m with
  | nil => rfl
  | cons x m ih =>
    obtain ⟨a, b⟩ := x
    simp only [Memory.erase]
    split
    · rename_i hk; subst hk; simp [Memory.read?, hj]
    · simp [Memory.read?, ih]

theorem Memory.mem_erase {m : Memory} {k : Nat} {c : Host.Cell} (h : c ∈ Memory.erase m k) : c ∈ m := by
  induction m with
  | nil => exact h
  | cons x m ih =>
    obtain ⟨a, b⟩ := x
    simp only [Memory.erase] at h
    split at h
    · exact List.mem_cons_of_mem _ h
    · rcases List.mem_cons.1 h with h | h
      · exact h ▸ List.mem_cons_self
      · exact List.mem_cons_of_mem _ (ih h)

/-- Taking a byte off keeps the canonical form. -/
theorem Memory.wf_erase {m : Memory} (h : Memory.wf m = true) (k : Nat) : Memory.wf (Memory.erase m k) = true := by
  induction m with
  | nil => rfl
  | cons x m ih =>
    obtain ⟨a, b⟩ := x
    rw [Memory.wf_cons] at h
    simp only [Memory.erase]
    split
    · exact h.2.2
    · exact Memory.wf_cons.2 ⟨h.1, fun c hc => h.2.1 c (Memory.mem_erase hc), ih h.2.2⟩

/-- No byte is listed below the first address of a canonical list. -/
theorem Memory.read_none_of_lt {m : Memory} {k : Nat} (h : ∀ c ∈ m, k < c.1) : Memory.read? m k = none := by
  induction m with
  | nil => rfl
  | cons x m ih =>
    obtain ⟨a, b⟩ := x
    have := h (a, b) List.mem_cons_self
    simp only [Memory.read?]
    rw [if_neg (by simp only at this; omega)]
    exact ih fun c hc => h c (List.mem_cons_of_mem _ hc)

/-- A byte taken off a canonical list is gone. -/
theorem Memory.read_erase_same {m : Memory} (h : Memory.wf m = true) (k : Nat) :
    Memory.read? (Memory.erase m k) k = none := by
  induction m with
  | nil => rfl
  | cons x m ih =>
    obtain ⟨a, b⟩ := x
    rw [Memory.wf_cons] at h
    simp only [Memory.erase]
    split
    · rename_i hk; exact Memory.read_none_of_lt fun c hc => hk ▸ h.2.1 c hc
    · rename_i hk; simpa [Memory.read?, hk] using ih h.2.2

/-- Everything the host's own store can do: memory and the settled bytes keep their form, and nothing but host memory and
the broken-duty addresses changes. -/
theorem hostStore_spec (a : Word) (b : Byte) (s : State) :
    (Memory.wf s.mem = true → Memory.wf (hostStore a b s).mem = true) ∧
    (DrawnInv s → DrawnInv (hostStore a b s)) ∧
    hostStore a b s = { s with
      mem := (hostStore a b s).mem, drawn := (hostStore a b s).drawn, tainted := (hostStore a b s).tainted } ∧
    (s.inflight = false → (hostStore a b s).tainted = s.tainted) := by
  unfold hostStore
  split
  · refine ⟨fun h => Memory.wf_write h a.isLt b, fun h => ⟨Memory.wf_erase h.1 _, fun k v hk => ?_⟩, rfl, fun h => ?_⟩
    · by_cases e : k = a.toNat
      · subst e; exact Memory.read_erase_same h.1 _
      · simp only [Memory.read_write_other _ b e] at hk
        simpa only [Memory.read_erase_other _ e] using h.2 k v hk
    · simp [inLiveBuffer, h]
  · exact ⟨id, id, rfl, fun _ => rfl⟩

/-- A store changes what no other address holds. -/
theorem hostByte_hostStore_other (a : Word) (b : Byte) (s : State) {k : Nat} (hk : k ≠ a.toNat) :
    hostByte? (hostStore a b s) k = hostByte? s k := by
  unfold hostStore
  split
  · simp [hostByte?, Memory.read_write_other _ b hk, Memory.read_erase_other _ hk]
  · rfl

/-- A byte the host has placed is the one its address holds. -/
theorem hostByte_placed {s : State} {a : Nat} {b : Byte} (hb : Memory.read? s.mem a = some b) :
    hostByte? s a = some b := by simp [hostByte?, hb]

/-- Where the host has kept its duty, a read gives the byte the address holds, whatever the draw (20_memory.md R63). -/
theorem memRead_held {s : State} {a : Nat} {b : Byte} (d : Draw) (ha : admits s a = true) (ht : a ∉ s.tainted)
    (hb : hostByte? s a = some b) : memRead s d a = some b := by
  simp [memRead, ha, ht, hb]

/-- A read that no draw can change is of an admitted address whose duty is kept and whose byte is known. -/
theorem memRead_fixed {s : State} {a : Nat} {b : Byte} :
    (∀ d, memRead s d a = some b) ↔ admits s a = true ∧ a ∉ s.tainted ∧ hostByte? s a = some b := by
  refine ⟨fun h => ?_, fun h d => memRead_held d h.1 h.2.1 h.2.2⟩
  have ha : admits s a = true := by
    by_contra hn
    have := h default
    simp [memRead, hn] at this
  have two : ∀ v : Byte, memRead s { (default : Draw) with mem := v } a = some b := fun v => h _
  have ht : a ∉ s.tainted := by
    intro ht
    have h0 := two (b + 1)
    simp [memRead, ha, ht] at h0
  refine ⟨ha, ht, ?_⟩
  have h0 := two (b + 1)
  simp only [memRead, ha, ht, if_true, if_false, Option.some.injEq] at h0
  cases hb : hostByte? s a with
  | some v => simpa [hb] using h0
  | none => simp [hb] at h0

/-! ### What a read settles -/

/-- A read touches nothing but the settled bytes. -/
theorem noteRead_eq (d : Draw) (a : Nat) (s : State) : noteRead d a s = { s with drawn := (noteRead d a s).drawn } := by
  unfold noteRead
  split <;> rfl

/-- The settled bytes keep their form. -/
theorem noteRead_drawnInv {d : Draw} {a : Nat} {s : State} (h : DrawnInv s) : DrawnInv (noteRead d a s) := by
  unfold noteRead
  split
  · rename_i hc
    simp only [Bool.and_eq_true, Option.isNone_iff_eq_none, hostByte?, Option.or_eq_none_iff] at hc
    obtain ⟨⟨ha, _⟩, hm, _⟩ := hc
    simp only [admits, Bool.and_eq_true, decide_eq_true_eq] at ha
    refine ⟨Memory.wf_write h.1 ha.1 _, fun k v hk => ?_⟩
    by_cases e : k = a
    · subst e; simp [hm] at hk
    · simpa only [Memory.read_write_other _ _ e] using h.2 k v hk
  · exact h

/-- A read changes no byte that an address holds. -/
theorem noteRead_keeps {d : Draw} {a k : Nat} {b : Byte} {s : State} (h : hostByte? s k = some b) :
    hostByte? (noteRead d a s) k = some b := by
  unfold noteRead
  split
  · rename_i hc
    simp only [Bool.and_eq_true, Option.isNone_iff_eq_none] at hc
    have e : k ≠ a := by rintro rfl; simp [h] at hc
    simpa [hostByte?, Memory.read_write_other _ _ e] using h
  · exact h

/-- After a read, the address holds the byte that was read (20_memory.md R63). -/
theorem noteRead_settles {d : Draw} {a : Nat} {b : Byte} {s : State} (ht : a ∉ s.tainted) (h : memRead s d a = some b) :
    ∀ d', memRead (noteRead d a s) d' a = some b := by
  have ha : admits s a = true := by
    by_contra hn
    simp [memRead, hn] at h
  refine memRead_fixed.2 ⟨?_, ?_, ?_⟩
  · rw [noteRead_eq]; exact ha
  · rw [noteRead_eq]; exact ht
  · simp only [memRead, ha, ht, if_true, if_false, Option.some.injEq] at h
    cases hb : hostByte? s a with
    | some v =>
      simp only [hb, Option.getD_some] at h
      subst h
      exact noteRead_keeps hb
    | none =>
      simp only [hb, Option.getD_none] at h
      have hm : Memory.read? s.mem a = none := by
        simp only [hostByte?, Option.or_eq_none_iff] at hb; exact hb.1
      rw [noteRead, if_pos (by simp [ha, ht, hb])]
      simp [hostByte?, hm, Memory.read_write_same, h]

/-- Reading a payload's byte touches nothing but the settled bytes. -/
theorem noteByte_eq (d : Draw) (p : Payload) (i : Nat) (s : State) :
    noteByte d p i s = { s with drawn := (noteByte d p i s).drawn } := by
  cases p <;> simp only [noteByte]
  all_goals split
  all_goals first
    | rfl
    | exact noteRead_eq _ _ _

@[simp] theorem noteByte_args (d : Draw) (p : Payload) (i : Nat) (s : State) : (noteByte d p i s).args = s.args := by
  rw [noteByte_eq]
@[simp] theorem noteByte_latched (d : Draw) (p : Payload) (i : Nat) (s : State) : (noteByte d p i s).latched = s.latched := by
  rw [noteByte_eq]
@[simp] theorem noteByte_seqOp (d : Draw) (p : Payload) (i : Nat) (s : State) : (noteByte d p i s).seqOp = s.seqOp := by
  rw [noteByte_eq]
@[simp] theorem noteByte_seqStep (d : Draw) (p : Payload) (i : Nat) (s : State) : (noteByte d p i s).seqStep = s.seqStep := by
  rw [noteByte_eq]
@[simp] theorem noteByte_inflight (d : Draw) (p : Payload) (i : Nat) (s : State) : (noteByte d p i s).inflight = s.inflight := by
  rw [noteByte_eq]
@[simp] theorem noteByte_err (d : Draw) (p : Payload) (i : Nat) (s : State) : (noteByte d p i s).err = s.err := by
  rw [noteByte_eq]
@[simp] theorem noteByte_fault (d : Draw) (p : Payload) (i : Nat) (s : State) : (noteByte d p i s).fault = s.fault := by
  rw [noteByte_eq]
@[simp] theorem noteByte_faultCode (d : Draw) (p : Payload) (i : Nat) (s : State) : (noteByte d p i s).faultCode = s.faultCode := by
  rw [noteByte_eq]
@[simp] theorem noteByte_mode (d : Draw) (p : Payload) (i : Nat) (s : State) : (noteByte d p i s).mode = s.mode := by
  rw [noteByte_eq]
@[simp] theorem noteByte_bg (d : Draw) (p : Payload) (i : Nat) (s : State) : (noteByte d p i s).bg = s.bg := by
  rw [noteByte_eq]
@[simp] theorem noteByte_lifecycle (d : Draw) (p : Payload) (i : Nat) (s : State) : (noteByte d p i s).lifecycle = s.lifecycle := by
  rw [noteByte_eq]
@[simp] theorem noteByte_errCode (d : Draw) (p : Payload) (i : Nat) (s : State) : (noteByte d p i s).errCode = s.errCode := by
  rw [noteByte_eq]
@[simp] theorem noteByte_result (d : Draw) (p : Payload) (i : Nat) (s : State) : (noteByte d p i s).result = s.result := by
  rw [noteByte_eq]
@[simp] theorem noteByte_csN (d : Draw) (p : Payload) (i : Nat) (s : State) : (noteByte d p i s).csN = s.csN := by
  rw [noteByte_eq]
@[simp] theorem noteByte_dc (d : Draw) (p : Payload) (i : Nat) (s : State) : (noteByte d p i s).dc = s.dc := by
  rw [noteByte_eq]
@[simp] theorem noteByte_rstN (d : Draw) (p : Payload) (i : Nat) (s : State) : (noteByte d p i s).rstN = s.rstN := by
  rw [noteByte_eq]
@[simp] theorem noteByte_cyc (d : Draw) (p : Payload) (i : Nat) (s : State) : (noteByte d p i s).cyc = s.cyc := by
  rw [noteByte_eq]
@[simp] theorem noteByte_timer (d : Draw) (p : Payload) (i : Nat) (s : State) : (noteByte d p i s).timer = s.timer := by
  rw [noteByte_eq]
@[simp] theorem noteByte_trace (d : Draw) (p : Payload) (i : Nat) (s : State) : (noteByte d p i s).trace = s.trace := by
  rw [noteByte_eq]
@[simp] theorem noteByte_panel (d : Draw) (p : Payload) (i : Nat) (s : State) : (noteByte d p i s).panel = s.panel := by
  rw [noteByte_eq]
@[simp] theorem noteByte_mem (d : Draw) (p : Payload) (i : Nat) (s : State) : (noteByte d p i s).mem = s.mem := by
  rw [noteByte_eq]
@[simp] theorem noteByte_cfg (d : Draw) (p : Payload) (i : Nat) (s : State) : (noteByte d p i s).cfg = s.cfg := by
  rw [noteByte_eq]
@[simp] theorem noteByte_tainted (d : Draw) (p : Payload) (i : Nat) (s : State) : (noteByte d p i s).tainted = s.tainted := by
  rw [noteByte_eq]
@[simp] theorem noteByte_prog (d : Draw) (p : Payload) (i : Nat) (s : State) : (noteByte d p i s).prog = s.prog := by
  rw [noteByte_eq]
@[simp] theorem noteByte_rdata (d : Draw) (p : Payload) (i : Nat) (s : State) : (noteByte d p i s).rdata = s.rdata := by
  rw [noteByte_eq]
@[simp] theorem noteByte_script (d : Draw) (p : Payload) (i : Nat) (s : State) : (noteByte d p i s).script = s.script := by
  rw [noteByte_eq]
@[simp] theorem noteByte_tick (d : Draw) (p : Payload) (i : Nat) (s : State) : (noteByte d p i s).tick = s.tick := by
  rw [noteByte_eq]

theorem noteByte_drawnInv {d : Draw} {p : Payload} {i : Nat} {s : State} (h : DrawnInv s) :
    DrawnInv (noteByte d p i s) := by
  cases p <;> simp only [noteByte]
  all_goals first
    | exact h
    | (split <;> first | exact h | exact noteRead_drawnInv h)

theorem noteByte_keeps {d : Draw} {p : Payload} {i k : Nat} {b : Byte} {s : State} (h : hostByte? s k = some b) :
    hostByte? (noteByte d p i s) k = some b := by
  cases p <;> simp only [noteByte]
  all_goals first
    | exact h
    | (split <;> first | exact h | exact noteRead_keeps h)

/-- Reading a byte that no draw can change settles nothing new. -/
theorem noteByte_of_fixed {d : Draw} {p : Payload} {i : Nat} {s : State} {b : Byte}
    (h : ∀ d', payloadByte s d' p i = some b) : noteByte d p i s = s := by
  have key : ∀ a : Nat, (∃ v, ∀ d', memRead s d' a = some v) → noteRead d a s = s := by
    rintro a ⟨v, hv⟩
    have := memRead_fixed.1 hv
    simp [noteRead, this.2.2]
  cases p <;> simp only [noteByte]
  case buf base len =>
    split
    · rename_i hi
      exact key _ ⟨b, fun d' => by simpa [payloadByte, hi] using h d'⟩
    · rfl
  case bufCompl base len =>
    split
    · rename_i hi
      refine key _ ⟨~~~b, fun d' => ?_⟩
      have := h d'
      simp only [payloadByte, hi, if_true, Option.map_eq_some_iff] at this
      obtain ⟨v, hv, rfl⟩ := this
      simpa using hv
    · rfl

/-- A read gives no byte exactly where host memory does not admit the address (R61). -/
theorem memRead_eq_none {s : State} {d : Draw} {a : Nat} : memRead s d a = none ↔ admits s a = false := by
  unfold memRead
  split
  · rename_i h; simp only [h]; split <;> simp
  · rename_i h; simpa using h

end Sys2Proof.Machine
end

