-- ==== Sys2Proof/Laws/Framer.lean ====
section
/-! SUPPORT. The framer: a cycle's steps, chained once, give the pin-level transcript of R114; every run form reads that
chain. -/

namespace Sys2Proof.Machine

/-- The sequencer's move inside a cycle is the cycle's step. -/
theorem sequencerMove_cycle {s : State} {c : Cycle} (d : Draw) (hi : s.inflight = true) (ht : s.timer = none)
    (hc : s.cyc = some c) : sequencerMove d s = .next (cycleStep c d s) := by
  simp [sequencerMove, hi, ht, hc]

/-- The sequencer's move between cycles is the step SEQ stands at. -/
theorem sequencerMove_fetch {s : State} {st : SeqStep} (d : Draw) (hi : s.inflight = true) (ht : s.timer = none)
    (hc : s.cyc = none) (hf : seqFetch s = some st) : sequencerMove d s = runSeqStep st d s := by
  simp [sequencerMove, hi, ht, hc, hf]

/-- `ds` answers the steps of one cycle from `s` to `t`, a cycle being open before each of them. -/
inductive InCycle : List Draw → State → State → Prop where
  | done (s : State) : InCycle [] s s
  | more {d : Draw} {ds : List Draw} {s t : State} {c : Cycle} (hi : s.inflight = true) (ht : s.timer = none)
      (hc : s.cyc = some c) (h : InCycle ds (cycleStep c d s) t) : InCycle (d :: ds) s t

theorem InCycle.append {ds es : List Draw} {s t u : State} (h : InCycle ds s t) (h' : InCycle es t u) :
    InCycle (ds ++ es) s u := by
  induction h with
  | done => exact h'
  | more hi ht hc _ ih => exact .more hi ht hc (ih h')

theorem InCycle.runDraws {ds : List Draw} {s t : State} (h : InCycle ds s t) : runDraws ds s = .next t := by
  induction h with
  | done => rfl
  | more hi ht hc _ ih => simp [Machine.runDraws, sequencerMove_cycle _ hi ht hc, ih]

theorem InCycle.runCycle {ds : List Draw} {s t : State} (h : InCycle ds s t) : runCycle ds s = t := by
  induction h with
  | done => rfl
  | more _ _ hc _ ih => simp [Machine.runCycle, hc, ih]

theorem InCycle.quietRun {ds : List Draw} {s t : State} (h : InCycle ds s t) (hq : ∀ d ∈ ds, d = quietDraw) :
    quietRun ds.length s = .next t := by
  induction h with
  | done => rfl
  | @more d ds s t c hi ht hc _ ih =>
    have hd : d = quietDraw := hq d List.mem_cons_self
    subst hd
    simp [Machine.quietRun, quietTurn, ht, applyMove, sequencerMove_cycle _ hi ht hc,
      ih fun d hd => hq d (List.mem_cons_of_mem _ hd)]

/-- What a payload yields depends on host memory, the platform and the broken-duty addresses alone. -/
theorem payloadByte_congr {s t : State} (hm : t.mem = s.mem) (hd : t.drawn = s.drawn) (hc : t.cfg = s.cfg) (ht : t.tainted = s.tainted)
    (d : Draw) (p : Payload) (i : Nat) : payloadByte t d p i = payloadByte s d p i := by
  cases p <;> simp [payloadByte, memRead, admits, hostByte?, hm, hd, hc, ht]

theorem Yields.congr {s t : State} {p : Payload} {bs : List Byte} (h : Yields s p bs) (hm : t.mem = s.mem)
    (hd : t.drawn = s.drawn) (hc : t.cfg = s.cfg) (ht : t.tainted = s.tainted) : Yields t p bs :=
  ⟨h.1, fun i d hi => (payloadByte_congr hm hd hc ht d p i).trans (h.2 i d hi)⟩

theorem InCycle.step {d : Draw} {ds : List Draw} {s t u : State} {c : Cycle} (hi : s.inflight = true)
    (ht : s.timer = none) (hc : s.cyc = some c) (he : cycleStep c d s = t) (h : InCycle ds t u) :
    InCycle (d :: ds) s u := .more hi ht hc (he ▸ h)

/-- Data bytes gone out: their events, and the record. -/
def emitBytes (bs : List Byte) (s : State) : State :=
  { s with trace := s.trace ++ bs.map .data, panel := bs.foldl (fun r b => r.data b) s.panel }

theorem emitBytes_cons (b : Byte) (bs : List Byte) (s : State) :
    emitBytes (b :: bs) s = emitBytes bs (emitData b s) := by
  simp [emitBytes, emitData]

/-- A cycle record in place. -/
def setCycle (c : Cycle) (s : State) : State := { s with cyc := some c }

@[simp] theorem emitBytes_args (bs : List Byte) (s : State) : (emitBytes bs s).args = s.args := rfl
@[simp] theorem emitBytes_latched (bs : List Byte) (s : State) : (emitBytes bs s).latched = s.latched := rfl
@[simp] theorem emitBytes_seqOp (bs : List Byte) (s : State) : (emitBytes bs s).seqOp = s.seqOp := rfl
@[simp] theorem emitBytes_seqStep (bs : List Byte) (s : State) : (emitBytes bs s).seqStep = s.seqStep := rfl
@[simp] theorem emitBytes_inflight (bs : List Byte) (s : State) : (emitBytes bs s).inflight = s.inflight := rfl
@[simp] theorem emitBytes_err (bs : List Byte) (s : State) : (emitBytes bs s).err = s.err := rfl
@[simp] theorem emitBytes_fault (bs : List Byte) (s : State) : (emitBytes bs s).fault = s.fault := rfl
@[simp] theorem emitBytes_faultCode (bs : List Byte) (s : State) : (emitBytes bs s).faultCode = s.faultCode := rfl
@[simp] theorem emitBytes_mode (bs : List Byte) (s : State) : (emitBytes bs s).mode = s.mode := rfl
@[simp] theorem emitBytes_bg (bs : List Byte) (s : State) : (emitBytes bs s).bg = s.bg := rfl
@[simp] theorem emitBytes_lifecycle (bs : List Byte) (s : State) : (emitBytes bs s).lifecycle = s.lifecycle := rfl
@[simp] theorem emitBytes_errCode (bs : List Byte) (s : State) : (emitBytes bs s).errCode = s.errCode := rfl
@[simp] theorem emitBytes_result (bs : List Byte) (s : State) : (emitBytes bs s).result = s.result := rfl
@[simp] theorem emitBytes_csN (bs : List Byte) (s : State) : (emitBytes bs s).csN = s.csN := rfl
@[simp] theorem emitBytes_dc (bs : List Byte) (s : State) : (emitBytes bs s).dc = s.dc := rfl
@[simp] theorem emitBytes_rstN (bs : List Byte) (s : State) : (emitBytes bs s).rstN = s.rstN := rfl
@[simp] theorem emitBytes_cyc (bs : List Byte) (s : State) : (emitBytes bs s).cyc = s.cyc := rfl
@[simp] theorem emitBytes_timer (bs : List Byte) (s : State) : (emitBytes bs s).timer = s.timer := rfl
@[simp] theorem emitBytes_trace (bs : List Byte) (s : State) : (emitBytes bs s).trace = s.trace ++ bs.map .data := rfl
@[simp] theorem emitBytes_panel (bs : List Byte) (s : State) : (emitBytes bs s).panel = bs.foldl (fun r b => r.data b) s.panel := rfl
@[simp] theorem emitBytes_mem (bs : List Byte) (s : State) : (emitBytes bs s).mem = s.mem := rfl
@[simp] theorem emitBytes_drawn (bs : List Byte) (s : State) : (emitBytes bs s).drawn = s.drawn := rfl
@[simp] theorem emitBytes_cfg (bs : List Byte) (s : State) : (emitBytes bs s).cfg = s.cfg := rfl
@[simp] theorem emitBytes_tainted (bs : List Byte) (s : State) : (emitBytes bs s).tainted = s.tainted := rfl
@[simp] theorem emitBytes_prog (bs : List Byte) (s : State) : (emitBytes bs s).prog = s.prog := rfl
@[simp] theorem emitBytes_rdata (bs : List Byte) (s : State) : (emitBytes bs s).rdata = s.rdata := rfl
@[simp] theorem emitBytes_script (bs : List Byte) (s : State) : (emitBytes bs s).script = s.script := rfl
@[simp] theorem emitBytes_tick (bs : List Byte) (s : State) : (emitBytes bs s).tick = s.tick := rfl

@[simp] theorem setCycle_args (c : Cycle) (s : State) : (setCycle c s).args = s.args := rfl
@[simp] theorem setCycle_latched (c : Cycle) (s : State) : (setCycle c s).latched = s.latched := rfl
@[simp] theorem setCycle_seqOp (c : Cycle) (s : State) : (setCycle c s).seqOp = s.seqOp := rfl
@[simp] theorem setCycle_seqStep (c : Cycle) (s : State) : (setCycle c s).seqStep = s.seqStep := rfl
@[simp] theorem setCycle_inflight (c : Cycle) (s : State) : (setCycle c s).inflight = s.inflight := rfl
@[simp] theorem setCycle_err (c : Cycle) (s : State) : (setCycle c s).err = s.err := rfl
@[simp] theorem setCycle_fault (c : Cycle) (s : State) : (setCycle c s).fault = s.fault := rfl
@[simp] theorem setCycle_faultCode (c : Cycle) (s : State) : (setCycle c s).faultCode = s.faultCode := rfl
@[simp] theorem setCycle_mode (c : Cycle) (s : State) : (setCycle c s).mode = s.mode := rfl
@[simp] theorem setCycle_bg (c : Cycle) (s : State) : (setCycle c s).bg = s.bg := rfl
@[simp] theorem setCycle_lifecycle (c : Cycle) (s : State) : (setCycle c s).lifecycle = s.lifecycle := rfl
@[simp] theorem setCycle_errCode (c : Cycle) (s : State) : (setCycle c s).errCode = s.errCode := rfl
@[simp] theorem setCycle_result (c : Cycle) (s : State) : (setCycle c s).result = s.result := rfl
@[simp] theorem setCycle_csN (c : Cycle) (s : State) : (setCycle c s).csN = s.csN := rfl
@[simp] theorem setCycle_dc (c : Cycle) (s : State) : (setCycle c s).dc = s.dc := rfl
@[simp] theorem setCycle_rstN (c : Cycle) (s : State) : (setCycle c s).rstN = s.rstN := rfl
@[simp] theorem setCycle_cyc (c : Cycle) (s : State) : (setCycle c s).cyc = some c := rfl
@[simp] theorem setCycle_timer (c : Cycle) (s : State) : (setCycle c s).timer = s.timer := rfl
@[simp] theorem setCycle_trace (c : Cycle) (s : State) : (setCycle c s).trace = s.trace := rfl
@[simp] theorem setCycle_panel (c : Cycle) (s : State) : (setCycle c s).panel = s.panel := rfl
@[simp] theorem setCycle_mem (c : Cycle) (s : State) : (setCycle c s).mem = s.mem := rfl
@[simp] theorem setCycle_drawn (c : Cycle) (s : State) : (setCycle c s).drawn = s.drawn := rfl
@[simp] theorem setCycle_cfg (c : Cycle) (s : State) : (setCycle c s).cfg = s.cfg := rfl
@[simp] theorem setCycle_tainted (c : Cycle) (s : State) : (setCycle c s).tainted = s.tainted := rfl
@[simp] theorem setCycle_prog (c : Cycle) (s : State) : (setCycle c s).prog = s.prog := rfl
@[simp] theorem setCycle_rdata (c : Cycle) (s : State) : (setCycle c s).rdata = s.rdata := rfl
@[simp] theorem setCycle_script (c : Cycle) (s : State) : (setCycle c s).script = s.script := rfl
@[simp] theorem setCycle_tick (c : Cycle) (s : State) : (setCycle c s).tick = s.tick := rfl


/-- The data bytes of a Burst cycle, one a step. -/
theorem inCycle_data {p : Payload} (rest : List Byte) : ∀ (sent : Nat) (s : State) (ds : List Draw),
    s.inflight = true → s.timer = none → s.cyc = some ⟨.burst, p, .data, sent⟩ → rest ≠ [] →
    sent + rest.length = p.length →
    (∀ (i : Nat) (d : Draw), i < rest.length → payloadByte s d p (sent + i) = rest[i]?) →
    ds.length = rest.length → (∀ d ∈ ds, d.transport = .ok) →
    InCycle ds s (setCycle ⟨.burst, p, .csHigh, p.length⟩ (emitBytes rest s)) := by
  induction rest with
  | nil => intro _ _ _ _ _ _ h; exact absurd rfl h
  | cons b rest ih =>
    intro sent s ds hi ht hc _ hlen hy hds hok
    obtain ⟨d, ds, rfl⟩ : ∃ d ds', ds = d :: ds' := by cases ds <;> simp at hds ⊢
    have hb := hy 0 d (by simp)
    simp only [Nat.add_zero, List.getElem?_cons_zero] at hb
    have hn : noteByte d p sent s = s := noteByte_of_fixed (b := b) fun d' => by simpa using hy 0 d' (by simp)
    have hok' : d.transport = .ok := hok d List.mem_cons_self
    simp only [List.length_cons, Nat.add_right_cancel_iff] at hds hlen
    by_cases hr : rest = []
    · subst hr
      obtain rfl : ds = [] := by simpa using hds
      have hl : sent + 1 = p.length := by simpa using hlen
      refine .step hi ht hc ?_ (.done _)
      simp [cycleStep, hb, hn, busWrite, hok', afterData, hl, toPhase, setCycle, emitBytes, emitData]
    · have hne : sent + 1 ≠ p.length := by
        have := List.length_pos_iff.2 hr
        omega
      refine .step (t := setCycle ⟨.burst, p, .data, sent + 1⟩ (emitData b s)) hi ht hc ?_ ?_
      · simp [cycleStep, hb, hn, busWrite, hok', afterData, hne, toPhase, setCycle]
      · have key := ih (sent + 1) (setCycle ⟨.burst, p, .data, sent + 1⟩ (emitData b s)) ds
          (by simpa using hi) (by simpa using ht) (by simp) hr (by omega)
          (fun i d' hi' => by
            have h := hy (i + 1) d' (by simpa using hi')
            rw [List.getElem?_cons_succ] at h
            rw [← h, show sent + 1 + i = sent + (i + 1) by omega]
            exact payloadByte_congr (by simp) (by simp) (by simp) (by simp) d' p _) hds
          (fun d' hd' => hok d' (List.mem_cons_of_mem _ hd'))
        rw [emitBytes_cons]
        exact key

/-- The whole Burst cycle after its first event (40_framer.md R114): DC, command byte, DC, the payload, CS. -/
theorem inCycle_burst {c : PanelCommand} {p : Payload} {bs : List Byte} {s : State} {ds : List Draw}
    (hi : s.inflight = true) (ht : s.timer = none) (hc : s.cyc = some ⟨.burst, p, .dcCmd c, 0⟩)
    (hy : Yields s p bs) (hds : ds.length = bs.length + 4) (hok : ∀ d ∈ ds, d.transport = .ok) :
    InCycle ds s
      (endCycle (driveCs true (emitBytes bs (driveDc Config.dcDataLevel (emitCommand c
        (driveDc Config.dcCmdLevel s)))))) := by
  obtain ⟨d1, d2, d3, ds, rfl⟩ : ∃ d1 d2 d3 ds', ds = d1 :: d2 :: d3 :: ds' := by
    rcases ds with _ | ⟨d1, _ | ⟨d2, _ | ⟨d3, ds⟩⟩⟩ <;> simp at hds ⊢
  have h2 : d2.transport = .ok := hok d2 (by simp)
  have hp := hy.1
  simp only [List.length_cons, Nat.add_right_cancel_iff] at hds
  let s1 := setCycle ⟨.burst, p, .cmdByte c, 0⟩ (driveDc Config.dcCmdLevel s)
  let s2 := setCycle ⟨.burst, p, .dcData, 0⟩ (emitCommand c (driveDc Config.dcCmdLevel s))
  let s3 := driveDc Config.dcDataLevel (emitCommand c (driveDc Config.dcCmdLevel s))
  have i1 : s1.inflight = true := by simpa [s1] using hi
  have t1 : s1.timer = none := by simpa [s1] using ht
  have i2 : s2.inflight = true := by simpa [s2] using hi
  have t2 : s2.timer = none := by simpa [s2] using ht
  have i3 : s3.inflight = true := by simpa [s3] using hi
  have t3 : s3.timer = none := by simpa [s3] using ht
  refine .step (t := s1) hi ht hc rfl (.step (t := s2) (c := ⟨.burst, p, .cmdByte c, 0⟩) i1 t1 (by simp [s1]) ?_ ?_)
  · simp [cycleStep, busWrite, h2, s1, s2, setCycle, toPhase, emitCommand]
  rcases bs with _ | ⟨b, bs⟩
  · obtain ⟨d4, rfl⟩ : ∃ d4, ds = [d4] := by
      rcases ds with _ | ⟨d4, _ | ⟨_, _⟩⟩ <;> simp at hds ⊢
    have h0 : p.length = 0 := by simpa using hp
    refine .step (t := setCycle ⟨.burst, p, .csHigh, 0⟩ s3) (c := ⟨.burst, p, .dcData, 0⟩) i2 t2
      (by simp [s2]) ?_ (.step (c := ⟨.burst, p, .csHigh, 0⟩) (by simpa using i3) (by simpa using t3) (by simp) ?_
        (.done _))
    · simp [cycleStep, h0, s2, s3, setCycle, toPhase, driveDc, emitCommand]
    · simp [cycleStep, h0, s3, setCycle, endCycle, driveCs, emitBytes]
  · have h0 : p.length ≠ 0 := by simp [hp]
    obtain ⟨es, d5, rfl⟩ : ∃ es d5, ds = es ++ [d5] := by
      refine ⟨ds.dropLast, ds.getLast (by rintro rfl; simp at hds), ?_⟩
      rw [List.dropLast_append_getLast]
    simp only [List.length_append, List.length_cons, List.length_nil, Nat.zero_add] at hds
    refine .step (t := setCycle ⟨.burst, p, .data, 0⟩ s3) (c := ⟨.burst, p, .dcData, 0⟩) i2 t2 (by simp [s2])
      ?_ ?_
    · simp [cycleStep, h0, s2, s3, setCycle, toPhase, driveDc, emitCommand]
    have key := inCycle_data (p := p) (b :: bs) 0 (setCycle ⟨.burst, p, .data, 0⟩ s3) es (by simpa using i3)
      (by simpa using t3) (by simp) (by simp) (by simp [hp])
      (fun i d hi' => by
        rw [Nat.zero_add, ← hy.2 i d hi']
        exact payloadByte_congr (by simp [s3]) (by simp [s3]) (by simp [s3]) (by simp [s3]) d p i) (by simp; omega)
      (fun d hd => hok d (by simp [hd]))
    refine key.append (.step (c := ⟨.burst, p, .csHigh, p.length⟩) (by simpa using i3) (by simpa using t3)
      (by simp) ?_ (.done _))
    simp [cycleStep, s3, setCycle, endCycle, driveCs, emitBytes]

end Sys2Proof.Machine
end

