-- ==== Sys2Proof/Laws/Exec.lean ====
section
/-! SUPPORT. What `exec`, acceptance and a step can do, said once: the provers cite these instead of unfolding. -/

namespace Sys2Proof.Machine

/-- A CTRL word's meaning is its acceptance (30_encoding.md R98). -/
theorem exec_ctrl {i : Instr} (h : i.cycle? = none) (s : State) : exec i s = .next (accept i s) := by
  cases i <;> first | rfl | cases h

/-- A panel command's meaning begins its cycle (40_framer.md R111). -/
theorem exec_ofCycle (c : PanelCommand) (p : Payload) (s : State) :
    exec (.ofCycle c p) s = beginCycle c p s := by cases c <;> rfl

/-- The same, for an instruction known to be a panel command. -/
theorem exec_cycle {i : Instr} {c : PanelCommand} {p : Payload} (h : i.cycle? = some (c, p)) (s : State) :
    exec i s = beginCycle c p s := by rw [Instr.ofCycle_of_cycle? h, exec_ofCycle]

/-- A CTRL word decodes to an operation or a reserved code, never to a panel command. -/
theorem decodeCtrl_cycle? (v : Word) : (decodeCtrl v).cycle? = none := by
  unfold decodeCtrl
  split <;> rfl

/-- The five outcomes of acceptance, in the order of R98. -/
theorem accept_cases (i : Instr) (s : State) :
    (s.fault = true ∧ accept i s = s) ∨
    (s.fault = false ∧ s.inflight = true ∧ accept i s = raiseReentrant s) ∨
    (s.fault = false ∧ s.inflight = false ∧ illegalOp i = true ∧ accept i s = raiseFault codeIllegalOp s) ∨
    (s.fault = false ∧ s.inflight = false ∧ illegalOp i = false ∧ needsReady i = true ∧ s.lifecycle ≠ .ready ∧
      accept i s = raiseFault codeNotReady s) ∨
    (s.fault = false ∧ s.inflight = false ∧ illegalOp i = false ∧ (needsReady i = true → s.lifecycle = .ready) ∧
      accept i s = startOp i s) := by
  unfold accept
  cases hf : s.fault
  · cases hi : s.inflight
    · cases ho : illegalOp i
      · cases hn : needsReady i
        · simp
        · by_cases hl : s.lifecycle = .ready <;> simp [hl]
      · simp
    · simp
  · simp

/-- Beginning a cycle always succeeds, and touches only the framer's pins, the cycle and the transcript. -/
theorem beginCycle_spec (c : PanelCommand) (p : Payload) (s : State) :
    ∃ t, beginCycle c p s = .next t ∧
      t = { s with csN := t.csN, dc := t.dc, cyc := t.cyc, trace := t.trace } ∧
      (∀ k, t.cyc = some k → k.payload = p ∧ (s.csN = true → CycleInv t k)) ∧ t.cyc.isSome = true := by
  unfold beginCycle
  cases s.cfg.framing
  · exact ⟨_, rfl, rfl, by
      rintro k ⟨⟩
      exact ⟨rfl, fun _ => by simp [CycleInv, Phase.belongs, Phase.csHighNow, Phase.dcIsData, Phase.dcIsCmd, Phase.sentFits,
        Cycle.burstWhole]⟩, rfl⟩
  · exact ⟨_, rfl, rfl, by
      rintro k ⟨⟩
      exact ⟨rfl, fun h => by simp [CycleInv, Phase.belongs, Phase.csHighNow, Phase.dcIsData, Phase.dcIsCmd, Phase.sentFits,
        Cycle.burstWhole, h]⟩, rfl⟩

/-- `exec` never faults and never refuses: every instruction has its meaning. -/
theorem exec_next (i : Instr) (s : State) : ∃ t, exec i s = .next t := by
  rcases h : i.cycle? with _ | ⟨c, p⟩
  · exact ⟨_, exec_ctrl h s⟩
  · obtain ⟨t, ht, _⟩ := beginCycle_spec c p s
    exact ⟨t, (exec_cycle h s).trans ht⟩

/-- An operation whose premises hold is accepted (30_encoding.md R98). -/
theorem exec_accepts {i : Instr} {s : State} (hi : i.cycle? = none) (ha : Accepting s) (hl : illegalOp i = false)
    (hn : needsReady i = true → s.lifecycle = .ready) : exec i s = .next (startOp i s) := by
  rw [exec_ctrl hi]
  simp only [accept, ha.1, ha.2, hl]
  by_cases h : needsReady i = true
  · simp [h, hn h]
  · simp [h]

end Sys2Proof.Machine
end

