-- ==== Sys2Proof/Laws/StepLists.lean ====
section
/-! SUPPORT. The step lists: every step leaves room for the step it goes on to, and which steps can stand where. -/

namespace Sys2Proof.Machine

/-- How far a step can move SEQ forward; 0 for a step that ends the operation or goes back. -/
def SeqStep.reach : SeqStep → Nat
  | .sample | .statusRead => 2
  | .rst _ | .delay _ | .cycle _ | .enterFull | .enterPartial => 1
  | .poll _ | .setBackground _ | .getBackground | .getWidth | .getHeight | .finishInit | .finish => 0

/-- Every step's reach stays inside the list. -/
def stepsFit : List SeqStep → Bool
  | [] => true
  | st :: rest => decide (st.reach ≤ rest.length) && stepsFit rest

theorem stepsFit_reach {l : List SeqStep} (h : stepsFit l = true) {k : Nat} {st : SeqStep} (hk : l[k]? = some st) :
    k + st.reach < l.length := by
  induction l generalizing k with
  | nil => simp at hk
  | cons a l ih =>
    simp only [stepsFit, Bool.and_eq_true, decide_eq_true_eq] at h
    cases k with
    | zero =>
      simp only [List.getElem?_cons_zero, Option.some.injEq] at hk
      subst hk
      simp only [List.length_cons]; omega
    | succ k =>
      have := ih h.2 (k := k) (by simpa using hk)
      simp only [List.length_cons]; omega

theorem stepsFit_stepList (op : Instr) (s : State) (h : isHostOp op = true) : stepsFit (stepList op s) = true := by
  cases hb : s.cfg.busySource <;> cases op <;> first | cases h | skip
  all_goals
    simp only [stepList, initSteps, wakeUpSteps, waitIdleSteps, waitUntilIdleSteps, sleepSteps, updateFrameSteps,
      updatePartialFrameSteps, displayFrameSteps, updateAndDisplayFrameSteps, clearFrameSteps, triggerSteps, fullPlanes,
      hb]
  all_goals first
    | rfl
    | (rename_i sel; cases sel <;> rfl)
    | (cases s.mode <;> rfl)

/-- A step list does not change while its inputs stay: BG, the latch, the platform, and MODE for DISPLAY_FRAME. -/
theorem stepList_congr {op : Instr} {s t : State} (hb : t.bg = s.bg) (hl : t.latched = s.latched)
    (hc : t.cfg = s.cfg) (hm : t.mode = s.mode ∨ op ≠ .displayFrame) : stepList op t = stepList op s := by
  cases op <;> simp_all [stepList]

/-- RST_N is driven only at the two places of the reset pulse (42_init.md R147). -/
theorem stepList_rst {op : Instr} {s : State} (h : isHostOp op = true) {k : Nat} {v : Bool}
    (hk : (stepList op s)[k]? = some (.rst v)) :
    pulsesReset op = true ∧ ((k = 0 ∧ v = false) ∨ (k = 2 ∧ v = true)) := by
  cases hb : s.cfg.busySource <;> cases op <;> first | cases h | skip
  all_goals
    simp only [stepList, initSteps, wakeUpSteps, waitIdleSteps, waitUntilIdleSteps, sleepSteps, updateFrameSteps,
      updatePartialFrameSteps, displayFrameSteps, updateAndDisplayFrameSteps, clearFrameSteps, triggerSteps, fullPlanes,
      hb] at hk
  all_goals have hm := List.mem_of_getElem? hk
  all_goals first
    | (simp at hm; done)
    | (rename_i sel; cases sel <;> simp [setLutSteps, loadLuts, fam, lutCycles] at hm)
    | (cases hmo : s.mode <;> simp [loadLuts, fam, lutCycles, hmo] at hm; done)
    | (refine ⟨rfl, ?_⟩
       have hlt := (List.getElem?_eq_some_iff.1 hk).1
       simp only [List.cons_append, List.nil_append, List.length_cons, List.length_nil] at hlt hk
       interval_cases k <;> simp_all)

/-- The first three steps of the reset pulse (R147). -/
theorem stepList_pulse {op : Instr} (s : State) (h : pulsesReset op = true) :
    (stepList op s)[0]? = some (.rst false) ∧ (stepList op s)[1]? = some (.delay Config.tRstLow) ∧
      (stepList op s)[2]? = some (.rst true) := by
  cases op <;> first | (cases h; done) | exact ⟨rfl, rfl, rfl⟩

/-- The MODE checks stand only in the lists of the update operations, which do not depend on MODE. -/
theorem stepList_enter {op : Instr} {s : State} (h : isHostOp op = true) {k : Nat} {st : SeqStep}
    (hk : (stepList op s)[k]? = some st) (hs : st = .enterFull ∨ st = .enterPartial) : op ≠ .displayFrame := by
  rintro rfl
  have hm := List.mem_of_getElem? hk
  cases hb : s.cfg.busySource <;> cases hmo : s.mode <;> rcases hs with rfl | rfl <;>
    simp [stepList, displayFrameSteps, loadLuts, fam, lutCycles, triggerSteps, waitIdleSteps, hb, hmo] at hm

end Sys2Proof.Machine
end

