-- ==== Sys2Proof/Laws/Moves.lean ====
section
/-! SUPPORT. What each agent's move can do, said once: the writers of a register and the order of the transcript follow from
these without unfolding a step. -/

namespace Sys2Proof.Machine

/-- What the sequencer's move can do: nothing, one step of the open cycle, or the step SEQ stands at. -/
theorem sequencerMove_cases {d : Draw} {s t : State} (h : sequencerMove d s = .next t) :
    t = s ∨
    (∃ c, s.inflight = true ∧ s.timer = none ∧ s.cyc = some c ∧ t = cycleStep c d s) ∨
    (∃ op st, s.inflight = true ∧ s.timer = none ∧ s.cyc = none ∧ s.seqOp = some op ∧
      (stepList op s)[s.seqStep]? = some st ∧ runSeqStep st d s = .next t) := by
  unfold sequencerMove at h
  cases hi : s.inflight
  · rw [if_pos hi] at h
    simp only [Host.Outcome.next.injEq] at h
    exact .inl h.symm
  · rw [if_neg (by simp [hi])] at h
    cases ht : s.timer with
    | some n =>
      rw [ht] at h
      simp only [Host.Outcome.next.injEq] at h
      exact .inl h.symm
    | none =>
      cases hc : s.cyc with
      | some c =>
        rw [ht, hc] at h
        simp only [Host.Outcome.next.injEq] at h
        exact .inr (.inl ⟨c, rfl, rfl, rfl, h.symm⟩)
      | none =>
        rw [ht, hc] at h
        simp only at h
        cases hf : seqFetch s with
        | none => simp [hf] at h
        | some st =>
          rw [hf] at h
          unfold seqFetch at hf
          cases ho : s.seqOp with
          | none => simp [ho] at hf
          | some op =>
            rw [ho] at hf
            exact .inr (.inr ⟨op, st, rfl, rfl, rfl, rfl, hf, h⟩)

/-- What one step of an open cycle can do: nothing; go on or end, moving the framer's pins, the cycle, SEQ, the transcript,
the record and, at a data byte, what the read settles; or end the operation by a transport error whose byte has not gone
out, or went out the step before. A byte that has gone out in vain leaves the cycle failed. -/
theorem cycleStep_cases (c : Cycle) (d : Draw) (s : State) :
    (∃ u es, cycleStep c d s = u ∧ es.length ≤ 1 ∧
      u = { s with
        csN := u.csN, dc := u.dc, cyc := u.cyc, seqStep := u.seqStep, trace := s.trace ++ es, panel := u.panel
        drawn := u.drawn } ∧
      (u.drawn = s.drawn ∨ u.drawn = (noteByte d c.payload c.sent s).drawn) ∧
      (u = s ∨ ∀ c' e, u.cyc = some c' → c'.phase = .failed e → d.transport = .err e true) ∧
      ((u.panel = s.panel ∧ ∀ e ∈ es, ∃ v, e = .cs v ∨ e = .dc v) ∨
        (∃ k, c.phase = .cmdByte k ∧ es = [.cmd (Config.code k)] ∧ u.panel = s.panel.command k) ∨
        (∃ b, c.phase = .data ∧ es = [.data b] ∧ u.panel = s.panel.data b))) ∨
    (∃ e u, cycleStep c d s = transportError e u ∧
      ((d.transport = .err e false ∧ (u = s ∨ u = noteByte d c.payload c.sent s)) ∨ (c.phase = .failed e ∧ u = s))) := by
  have goesOn : ∀ {u : State} {k : Cycle} {r : TransportAnswer}, u.cyc = some k →
      (∀ e, k.phase = .failed e → r = .err e true) →
      (u = s ∨ ∀ c' e, u.cyc = some c' → c'.phase = .failed e → r = .err e true) := by
    intro u k r hu hk
    refine .inr fun c' e hc' he => hk e ?_
    obtain rfl : k = c' := by rw [hu] at hc'; exact Option.some.inj hc'
    exact he
  obtain ⟨fr, p, ph, n⟩ := c
  cases ph
  case cmdByte k =>
    rcases ht : d.transport with _ | ⟨e, _ | _⟩ <;> simp only [cycleStep, busWrite, ht]
    · refine .inl ⟨_, [.cmd (Config.code k)], rfl, by simp, rfl, .inl rfl, goesOn rfl ?_,
        .inr (.inl ⟨k, rfl, rfl, rfl⟩)⟩
      cases fr <;> simp
    · exact .inr ⟨e, s, rfl, .inl ⟨rfl, .inl rfl⟩⟩
    · refine .inl ⟨_, [.cmd (Config.code k)], rfl, by simp, rfl, .inl rfl, goesOn rfl ?_,
        .inr (.inl ⟨k, rfl, rfl, rfl⟩)⟩
      simp
  case data =>
    rcases hp : payloadByte s d p n with _ | b <;> simp only [cycleStep, hp]
    · exact .inl ⟨s, [], rfl, by simp, by simp, .inl rfl, .inl rfl, .inl (by simp)⟩
    · rcases ht : d.transport with _ | ⟨e, _ | _⟩ <;> simp only [busWrite, ht]
      · have key : ∃ c', (∀ e, c'.phase ≠ .failed e) ∧
            afterData ⟨fr, p, .data, n⟩ d (emitData b (noteByte d p n s)) =
              { emitData b (noteByte d p n s) with cyc := some c' } := by
          simp only [afterData]
          split
          · exact ⟨_, by simp, rfl⟩
          · cases fr
            · exact ⟨_, by simp, rfl⟩
            · exact ⟨_, by cases d.split <;> simp, rfl⟩
        obtain ⟨c', hne, e⟩ := key
        rw [e]
        refine .inl ⟨_, [.data b], rfl, by simp, ?_, .inr rfl, goesOn rfl fun e he => absurd he (hne e),
          .inr (.inr ⟨b, by simp, rfl, by simp⟩)⟩
        rw [noteByte_eq]; simp [emitData]
      · exact .inr ⟨e, _, rfl, .inl ⟨rfl, .inr rfl⟩⟩
      · refine .inl ⟨_, [.data b], rfl, by simp, ?_, .inr rfl, goesOn rfl ?_,
          .inr (.inr ⟨b, by simp, rfl, by simp⟩)⟩
        · rw [noteByte_eq]; simp [emitData, toPhase]
        · simp
  case dcCmd k =>
    exact .inl ⟨_, [.dc Config.dcCmdLevel], rfl, by simp, rfl, .inl rfl, goesOn rfl (by simp),
      .inl ⟨rfl, by simp⟩⟩
  case csCmd k => exact .inl ⟨_, [.cs false], rfl, by simp, rfl, .inl rfl, goesOn rfl (by simp),
    .inl ⟨rfl, by simp⟩⟩
  case csCmdHigh => exact .inl ⟨_, [.cs true], rfl, by simp, rfl, .inl rfl, goesOn rfl (by simp),
    .inl ⟨rfl, by simp⟩⟩
  case csData => exact .inl ⟨_, [.cs false], rfl, by simp, rfl, .inl rfl, goesOn rfl (by simp),
    .inl ⟨rfl, by simp⟩⟩
  case dcData =>
    cases fr <;> by_cases hl : p.length = 0 <;> simp only [cycleStep, hl, decide_true, decide_false] <;>
      exact .inl ⟨_, [.dc Config.dcDataLevel], rfl, by simp, rfl, .inl rfl, by first | exact goesOn rfl (by simp) | simp [endCycle],
        .inl ⟨rfl, by simp⟩⟩
  case csHigh =>
    by_cases hl : n = p.length <;> simp only [cycleStep, hl, if_true, if_false] <;>
      exact .inl ⟨_, [.cs true], rfl, by simp, rfl, .inl rfl, by first | exact goesOn rfl (by simp) | simp [endCycle],
        .inl ⟨rfl, by simp⟩⟩
  case failed e => exact .inr ⟨e, s, rfl, .inr ⟨rfl, rfl⟩⟩

/-- What a transport error leaves: nothing of the operation, the error recorded, CS high, and at most CS(1) more. -/
theorem transportError_spec (e : Nat) (s : State) :
    ∃ es, (es = [] ∨ es = [.cs true]) ∧
      transportError e s = { s with
        seqOp := none, seqStep := 0, inflight := false, err := true, lifecycle := .indeterminate
        errCode := errCodeOf e, csN := true, dc := Config.dcDataLevel, cyc := none, timer := none, tainted := []
        trace := s.trace ++ es } := by
  cases h : s.csN
  · exact ⟨[.cs true], .inr rfl, by simp [transportError, h, abortErr, leaveOp, driveCs]⟩
  · refine ⟨[], .inl rfl, ?_⟩
    simp [transportError, h, abortErr, leaveOp]

/-- What the host's move can do: nothing, a read, a write that stores an argument or is ignored, or a CTRL write. -/
theorem hostMove_cases {s t : State} (h : hostMove s = .next t) :
    t = { s with prog := t.prog, rdata := t.rdata } ∨
    (∃ r v rest, r ∈ argRegs ∧ s.prog = .wr r.access v :: rest ∧ t = { s with prog := rest, args := t.args }) ∨
    (∃ v rest, s.prog = .wr HostReg.ctrl.access v :: rest ∧
      t = accept (decodeCtrl v) { s with prog := rest }) := by
  unfold hostMove at h
  split at h
  · simp only [Host.Outcome.next.injEq] at h
    subst h
    exact .inl rfl
  · rename_i l rest hp
    cases l with
    | poll =>
      simp only [runHostLine, Host.Outcome.next.injEq] at h
      subst h
      exact .inl rfl
    | rd a =>
      simp only [runHostLine] at h
      split at h
      · simp only [Host.Outcome.next.injEq] at h
        subst h
        exact .inl rfl
      · cases h
    | wr a v =>
      simp only [runHostLine] at h
      split at h
      · rename_i ha
        obtain ⟨w, off⟩ := a
        obtain rfl : w = 4 := ha.1
        unfold writePort at h
        have hr : ∀ r, HostReg.ofOffset off = some r → (⟨4, off⟩ : Access) = r.access := by
          intro r hr
          unfold HostReg.ofOffset at hr
          split at hr <;> simp only [Option.some.injEq, reduceCtorEq] at hr <;> subst hr <;> rfl
        rcases ho : HostReg.ofOffset off with _ | r <;> rw [ho] at h
        · simp only [Host.Outcome.next.injEq] at h
          subst h
          exact .inl rfl
        · have hacc := hr r ho
          cases r
          case ctrl =>
            simp only [exec_ctrl (decodeCtrl_cycle? v), Host.Outcome.next.injEq] at h
            exact .inr (.inr ⟨v, rest, hacc ▸ hp, h.symm⟩)
          case status | result | errCode =>
            simp only [Host.Outcome.next.injEq] at h
            subst h
            exact .inl rfl
          all_goals
            simp only [Host.Outcome.next.injEq] at h
            refine .inr (.inl ⟨_, v, rest, ?_, hacc ▸ hp, ?_⟩)
            · simp [argRegs]
            · subst h; rfl
      · cases h

/-! ### Which operation a step belongs to -/

/-- Whether a step can stand in an operation's list. -/
def SeqStep.site (op : Instr) : SeqStep → Bool
  | .rst _ => pulsesReset op
  | .delay _ | .sample | .statusRead | .poll _ | .finish => true
  | .cycle i => i.cycle?.isSome
  | .enterFull => (op matches .updateFrame | .updateAndDisplayFrame)
  | .enterPartial => (op matches .updatePartialFrame)
  | .setBackground c => decide (op = .setBackground c)
  | .getBackground => (op matches .getBackground)
  | .getWidth => (op matches .getWidth)
  | .getHeight => (op matches .getHeight)
  | .finishInit => pulsesReset op

theorem all_stepList (f : SeqStep → Bool) (op : Instr) (s : State) {k : Nat} {st : SeqStep}
    (h : (stepList op s)[k]? = some st) (hf : (stepList op s).all f = true) : f st = true :=
  List.all_eq_true.1 hf st (List.mem_of_getElem? h)

/-- Every step stands only in lists it can stand in. -/
theorem stepList_site {op : Instr} {s : State} {k : Nat} {st : SeqStep} (h : (stepList op s)[k]? = some st) :
    st.site op = true := by
  refine all_stepList _ op s h ?_
  cases hb : s.cfg.busySource <;> cases op <;>
    simp only [stepList, initSteps, wakeUpSteps, waitIdleSteps, waitUntilIdleSteps, displayFrameSteps,
      updateAndDisplayFrameSteps, clearFrameSteps, triggerSteps, hb]
  all_goals first
    | rfl
    | (rename_i sel; cases sel <;> rfl)
    | (cases s.mode <;> rfl)

/-- The checks before the first event stand at the head of their lists (44_refresh.md R178, R182). -/
theorem stepList_enter_head {op : Instr} {s : State} {k : Nat} {st : SeqStep} (h : (stepList op s)[k]? = some st)
    (hs : st = .enterFull ∨ st = .enterPartial) : k = 0 := by
  cases k with
  | zero => rfl
  | succ k =>
    rw [← List.getElem?_tail] at h
    have key : (stepList op s).tail.all (fun st => !(st matches .enterFull | .enterPartial)) = true := by
      cases hb : s.cfg.busySource <;> cases op <;>
        simp only [stepList, initSteps, wakeUpSteps, waitIdleSteps, waitUntilIdleSteps, displayFrameSteps,
          updateAndDisplayFrameSteps, clearFrameSteps, triggerSteps, hb]
      all_goals first
        | rfl
        | (rename_i sel; cases sel <;> rfl)
        | (cases s.mode <;> rfl)
    have := List.all_eq_true.1 key st (List.mem_of_getElem? h)
    rcases hs with rfl | rfl <;> cases this

end Sys2Proof.Machine
end

