-- ==== Sys2Proof/Laws/Invariant.lean ====
section
/-! SUPPORT. The parts of the invariant, operation by operation: what each shared operation needs to keep it. -/

namespace Sys2Proof.Machine

/-- The invariant holds after block reset, whatever held before of all but host memory. -/
theorem Inv.blockReset {s : State} (hm : Memory.wf s.mem = true) (hd : DrawnInv s) : Inv (blockReset s) where
  memWf := hm
  drawnInv := hd
  faultCode := ⟨fun h => (by cases h), fun h => absurd rfl h⟩
  faultCodeLe := Nat.zero_le _
  halted := fun h => by cases h
  inflight := rfl
  idle := fun _ => ⟨rfl, rfl, rfl, rfl⟩
  pins := fun _ => ⟨rfl, fun _ => rfl⟩
  err := fun h => by cases h
  seq := fun _ h => by cases h
  cycle := fun _ h => by cases h
  rst := fun h => by cases h

/-- Where the sequencer stands at a step other than the reset pulse's, RST_N is high. -/
theorem Inv.rstN_of_fetch {s : State} (h : Inv s) (hi : s.inflight = true) {st : SeqStep}
    (hf : seqFetch s = some st) (h1 : st ≠ .delay Config.tRstLow) (h2 : st ≠ .rst true) : s.rstN = true := by
  by_contra hr
  rcases h.rst (by simpa using hr) with hfa | ⟨op, ho, hp, hk⟩
  · exact absurd (h.halted hfa) (by simp [hi])
  · have := stepList_pulse s hp
    simp only [seqFetch, ho] at hf
    rcases hk with hk | hk <;> rw [hk] at hf <;> simp_all

/-- Leaving an operation, as completion, fault and error do. -/
theorem Inv.leave {s t : State} (h : Inv s) (hmem : t.mem = s.mem ∧ t.drawn = s.drawn)
    (hseq : t.seqOp = none ∧ t.seqStep = 0 ∧ t.inflight = false ∧ t.cyc = none ∧ t.timer = none ∧ t.tainted = [])
    (hfc : t.fault = true ↔ t.faultCode ≠ 0#4) (hle : t.faultCode.toNat ≤ 9) (hcs : t.csN = true)
    (hdc : t.fault = false → t.dc = Config.dcDataLevel) (herr : t.err = true → t.lifecycle = .indeterminate)
    (hr : t.rstN = false → t.fault = true) : Inv t where
  memWf := hmem.1 ▸ h.memWf
  drawnInv := by unfold DrawnInv; rw [hmem.1, hmem.2]; exact h.drawnInv
  faultCode := hfc
  faultCodeLe := hle
  halted := fun _ => hseq.2.2.1
  inflight := by simp [hseq.1, hseq.2.2.1]
  idle := fun _ => ⟨hseq.2.1, hseq.2.2.2⟩
  pins := fun _ => ⟨hcs, hdc⟩
  err := herr
  seq := fun op ho => by simp [hseq.1] at ho
  cycle := fun c hc => by simp [hseq.2.2.2.1] at hc
  rst := fun hr' => .inl (hr hr')

/-- The operation in flight, its position and its premises. -/
theorem Inv.position {s : State} (h : Inv s) (hi : s.inflight = true) :
    ∃ op, s.seqOp = some op ∧ SeqInv s op ∧ s.fault = false := by
  have := h.inflight
  rw [hi] at this
  obtain ⟨op, ho⟩ := Option.isSome_iff_exists.1 this.symm
  refine ⟨op, ho, h.seq op ho, ?_⟩
  by_contra hf
  exact absurd (h.halted (by simpa using hf)) (by simp [hi])

/-- The sequencer never runs off its list: with an operation in flight there is a step to fetch. -/
theorem Inv.fetch {s : State} (h : Inv s) (hi : s.inflight = true) : ∃ st, seqFetch s = some st := by
  obtain ⟨op, ho, hs, _⟩ := h.position hi
  exact ⟨_, by rw [seqFetch, ho]; exact List.getElem?_eq_getElem hs.2.2.2.1⟩

/-- A fault raised where the operation's own checks or acceptance raise it: no cycle open, RST_N high. -/
theorem Inv.raiseFault {s : State} (h : Inv s) (hc : s.cyc = none) (hr : s.rstN = true)
    {code : BitVec 4} (h0 : code ≠ 0#4) (h9 : code.toNat ≤ 9) : Inv (raiseFault code s) :=
  h.leave ⟨rfl, rfl⟩ ⟨rfl, rfl, rfl, rfl, rfl, rfl⟩ (by simp [h0]) h9 (h.pins hc).1 (fun hf' => by simp at hf')
    h.err (fun hr' => by simp [hr] at hr')

/-- The Reentrant fault, from any point of an operation. -/
theorem Inv.raiseReentrant {s : State} (h : Inv s) : Inv (raiseReentrant s) :=
  h.leave ⟨rfl, rfl⟩ ⟨rfl, rfl, rfl, rfl, rfl, rfl⟩ (by simp [codeReentrant]) (by simp [codeReentrant]) rfl (fun hf => by simp at hf)
    h.err (fun _ => rfl)

/-- Outside an operation RST_N is high unless the block is halted. -/
theorem Inv.rstN_idle {s : State} (h : Inv s) (hi : s.inflight = false) (hf : s.fault = false) : s.rstN = true := by
  by_contra hr
  rcases h.rst (by simpa using hr) with hfa | ⟨op, ho, _⟩
  · simp [hf] at hfa
  · have := h.inflight
    simp [hi, ho] at this

/-- Acceptance keeps the invariant. -/
theorem Inv.accept {s : State} (h : Inv s) {i : Instr} (hi : i.cycle? = none) : Inv (accept i s) := by
  rcases accept_cases i s with ⟨_, e⟩ | ⟨_, _, e⟩ | ⟨hf, hn, _, e⟩ | ⟨hf, hn, _, _, _, e⟩ | ⟨hf, hn, hl, hr, e⟩ <;> rw [e]
  · exact h
  · exact h.raiseReentrant
  · exact h.raiseFault (h.idle hn).2.1 (h.rstN_idle hn hf) (by decide) (by decide)
  · exact h.raiseFault (h.idle hn).2.1 (h.rstN_idle hn hf) (by decide) (by decide)
  · obtain ⟨h0, hcy, hti, hta⟩ := h.idle hn
    exact {
      memWf := h.memWf
      drawnInv := h.drawnInv
      faultCode := h.faultCode
      faultCodeLe := h.faultCodeLe
      halted := fun hf' => by simp [hf] at hf'
      inflight := rfl
      idle := fun hn' => by simp at hn'
      pins := h.pins
      err := fun he => by simp at he
      seq := fun op ho => by
        simp only [startOp_seqOp, Option.some.injEq] at ho
        subst ho
        refine ⟨by simp [isHostOp, hi, hl], hr, rfl, ?_, fun c hc => by simp [hcy] at hc⟩
        have hh : isHostOp i = true := by simp [isHostOp, hi, hl]
        simp only [startOp_seqStep]
        cases i <;> first | (cases hl; done) | (cases hi; done) | skip
        all_goals
          simp [stepList, initSteps, wakeUpSteps, waitIdleSteps, waitUntilIdleSteps, sleepSteps, updateFrameSteps,
            updatePartialFrameSteps, displayFrameSteps, updateAndDisplayFrameSteps, clearFrameSteps, triggerSteps]
        rename_i sel
        cases sel <;> first | (cases hl; done) | simp [setLutSteps]
      cycle := fun c hc => by simp [hcy] at hc
      rst := fun hr' => by simp [h.rstN_idle hn hf] at hr' }

/-- A transport error, in a cycle: the framer's pins go idle (40_framer.md R118, R123). -/
theorem Inv.transportError {s : State} (h : Inv s) (hr : s.rstN = true) (e : Nat) : Inv (transportError e s) := by
  obtain ⟨es, _, he⟩ := transportError_spec e s
  rw [he]
  exact h.leave ⟨rfl, rfl⟩ ⟨rfl, rfl, rfl, rfl, rfl, rfl⟩ h.faultCode h.faultCodeLe rfl (fun _ => rfl) (fun _ => rfl)
    (fun hr' => by simp [hr] at hr')

/-- What a read settles keeps the invariant. -/
theorem Inv.noteByte {s : State} (h : Inv s) (d : Draw) (p : Payload) (n : Nat) : Inv (noteByte d p n s) := by
  have hd := noteByte_drawnInv (d := d) (p := p) (i := n) h.drawnInv
  have e := noteByte_eq d p n s
  generalize Machine.noteByte d p n s = t at hd e
  have hsl : ∀ op, stepList op t = stepList op s := fun op =>
    stepList_congr (by rw [e]) (by rw [e]) (by rw [e]) (.inl (by rw [e]))
  exact {
    memWf := by rw [e]; exact h.memWf
    drawnInv := hd
    faultCode := by rw [e]; exact h.faultCode
    faultCodeLe := by rw [e]; exact h.faultCodeLe
    halted := by rw [e]; exact h.halted
    inflight := by rw [e]; exact h.inflight
    idle := by rw [e]; exact h.idle
    pins := by rw [e]; exact h.pins
    err := by rw [e]; exact h.err
    seq := fun op ho => by
      have := h.seq op (by rw [e] at ho; exact ho)
      unfold SeqInv at this ⊢
      rw [hsl, e]; exact this
    cycle := by rw [e]; exact h.cycle
    rst := by rw [e]; exact h.rst }

/-- Going on within a cycle: only the framer's pins, the cycle, the transcript and the record of the panel move. -/
theorem Inv.inCycle {s t : State} (h : Inv s) {c c' : Cycle} (hc : s.cyc = some c)
    (he : t = { s with csN := t.csN, dc := t.dc, cyc := some c', trace := t.trace, panel := t.panel })
    (hp : c'.payload = c.payload) (hk : c'.phase.command? = none ∨ c'.phase.command? = c.phase.command?)
    (hci : CycleInv t c') : Inv t := by
  have hi : s.inflight = true := by
    by_contra hn
    simp [(h.idle (by simpa using hn)).2.1] at hc
  have hcy : t.cyc = some c' := by rw [he]
  rw [he]
  exact {
    memWf := h.memWf
    drawnInv := h.drawnInv
    faultCode := h.faultCode
    faultCodeLe := h.faultCodeLe
    halted := h.halted
    inflight := h.inflight
    idle := fun hn => by simp [hi] at hn
    pins := fun hn => by simp at hn
    err := h.err
    seq := fun op ho => by
      obtain ⟨h1, h2, h3, h4, h5⟩ := h.seq op ho
      obtain ⟨i, k, hf, hi', hph⟩ := h5 c hc
      refine ⟨h1, h2, h3, h4, fun c'' hc'' => ?_⟩
      simp only [Option.some.injEq] at hc''
      subst hc''
      refine ⟨i, k, hf, hp ▸ hi', ?_⟩
      rcases hk with hk | hk
      · exact .inl hk
      · exact hk ▸ hph
    cycle := fun k hk => by
      simp only [Option.some.injEq] at hk
      subst hk
      refine ⟨?_, (h.cycle c hc).2⟩
      simpa using hci
    rst := h.rst }

/-- The end of a cycle: the pins are idle and SEQ goes on. -/
theorem Inv.endCycle {s t : State} (h : Inv s) {c : Cycle} (hc : s.cyc = some c) (hr : s.rstN = true)
    (he : t = { s with csN := true, dc := Config.dcDataLevel, cyc := none, seqStep := s.seqStep + 1, trace := t.trace })
    : Inv t := by
  have hi : s.inflight = true := by
    by_contra hn
    simp [(h.idle (by simpa using hn)).2.1] at hc
  rw [he]
  exact {
    memWf := h.memWf
    drawnInv := h.drawnInv
    faultCode := h.faultCode
    faultCodeLe := h.faultCodeLe
    halted := h.halted
    inflight := h.inflight
    idle := fun hn => by simp [hi] at hn
    pins := fun _ => ⟨rfl, fun _ => rfl⟩
    err := h.err
    seq := fun op ho => by
      obtain ⟨h1, h2, h3, h4, h5⟩ := h.seq op ho
      refine ⟨h1, h2, h3, ?_, fun c hn => by simp at hn⟩
      obtain ⟨i, k, hst, _⟩ := h5 c hc
      have := stepsFit_reach (stepsFit_stepList op s h1) hst
      have hreach : (SeqStep.cycle i).reach = 1 := rfl
      have hsl : stepList op s = stepList op
          { s with csN := true, dc := Config.dcDataLevel, cyc := none, seqStep := s.seqStep + 1, trace := t.trace } :=
        (stepList_congr rfl rfl rfl (.inl rfl)).symm
      rw [← hsl]
      simp only
      omega
    cycle := fun k hk => by simp at hk
    rst := fun hr' => by simp [hr] at hr' }

/-- The step of a cycle in progress keeps the invariant. -/
theorem Inv.cycleStep {s : State} (h : Inv s) {c : Cycle} (hc : s.cyc = some c) (hr : s.rstN = true) (d : Draw) :
    Inv (cycleStep c d s) := by
  obtain ⟨⟨hb, hcs, hdc, hsent, hw, hcm⟩, _⟩ := h.cycle c hc
  obtain ⟨fr, p, ph, n⟩ := c
  cases ph <;> cases fr <;>
    simp only [Phase.belongs, Phase.csHighNow, Phase.dcIsData, Phase.dcIsCmd, Phase.sentFits, Cycle.burstWhole, beq_iff_eq,
      decide_eq_true_eq, reduceCtorEq, true_implies, false_implies, beq_self_eq_true] at hb hcs hdc hsent hw hcm
  case dcCmd.burst | csCmd.perWrite | csCmdHigh.perWrite | csData.perWrite =>
    simp only [Machine.cycleStep]
    refine h.inCycle hc rfl rfl (by simp [Phase.command?]) ?_
    simp_all [CycleInv, Phase.belongs, Phase.csHighNow, Phase.dcIsData, Phase.dcIsCmd, Phase.sentFits, Cycle.burstWhole, toPhase]
  case cmdByte.burst k | cmdByte.perWrite k =>
    rcases ht : d.transport with _ | ⟨e, _ | _⟩ <;> simp only [Machine.cycleStep, busWrite, ht]
    case err.false => exact h.transportError hr e
    all_goals
      refine h.inCycle hc rfl rfl (by simp [Phase.command?]) ?_
      simp_all [CycleInv, Phase.belongs, Phase.csHighNow, Phase.dcIsData, Phase.dcIsCmd, Phase.sentFits,
        Cycle.burstWhole, toPhase]
  case dcData.burst | dcData.perWrite =>
    by_cases hl : p.length = 0 <;> simp only [Machine.cycleStep, hl, decide_true, decide_false]
    all_goals first
      | (refine h.inCycle hc rfl rfl (by simp [Phase.command?]) ?_
         simp_all [CycleInv, Phase.belongs, Phase.csHighNow, Phase.dcIsData, Phase.dcIsCmd, Phase.sentFits, Cycle.burstWhole, toPhase]
         try omega)
      | (refine h.endCycle hc hr ?_
         simp_all [Machine.endCycle, driveDc])
  case data.burst | data.perWrite =>
    rcases hp : payloadByte s d p n with _ | b <;> simp only [Machine.cycleStep, hp]
    · exact h
    · have h' := h.noteByte d p n
      have hc' := (noteByte_cyc d p n s).trans hc
      rcases ht : d.transport with _ | ⟨e, _ | _⟩ <;> simp only [busWrite, ht]
      case err.false => exact h'.transportError (by simpa using hr) e
      case err.true =>
        refine h'.inCycle hc' rfl rfl (by simp [Phase.command?]) ?_
        simp_all [CycleInv, Phase.belongs, Phase.csHighNow, Phase.dcIsData, Phase.dcIsCmd, Phase.sentFits,
          Cycle.burstWhole, toPhase]
        omega
      case ok =>
        simp only [afterData]
        split
        · refine h'.inCycle hc' rfl rfl (by simp [Phase.command?]) ?_
          simp_all [CycleInv, Phase.belongs, Phase.csHighNow, Phase.dcIsData, Phase.dcIsCmd, Phase.sentFits,
            Cycle.burstWhole, toPhase]
        · try cases d.split
          all_goals
            refine h'.inCycle hc' rfl rfl (by simp [Phase.command?]) ?_
            simp_all [CycleInv, Phase.belongs, Phase.csHighNow, Phase.dcIsData, Phase.dcIsCmd, Phase.sentFits,
              Cycle.burstWhole, toPhase]
            try omega
  case failed.burst e | failed.perWrite e => exact h.transportError hr e
  case csHigh.burst | csHigh.perWrite =>
    by_cases hl : n = p.length <;> simp only [Machine.cycleStep, hl, if_true, if_false]
    all_goals first
      | (refine h.endCycle hc hr ?_
         simp_all [Machine.endCycle, driveCs]
         done)
      | (refine h.inCycle hc rfl rfl (by simp [Phase.command?]) ?_
         simp_all [CycleInv, Phase.belongs, Phase.csHighNow, Phase.dcIsData, Phase.dcIsCmd, Phase.sentFits, Cycle.burstWhole, toPhase]
         try omega)

/-- A step between cycles that stays in the list: SEQ, RST_N, the timer, MODE and the transcript move. -/
theorem Inv.move {s t : State} (h : Inv s) (hi : s.inflight = true) (hc : s.cyc = none) {op : Instr} (hop : s.seqOp = some op)
   (e : t = { s with seqStep := t.seqStep, rstN := t.rstN, timer := t.timer, trace := t.trace, mode := t.mode })
   (hm : t.mode = s.mode ∨ op ≠ .displayFrame)
   (hk : t.seqStep < (stepList op s).length)
   (hr : t.rstN = false → pulsesReset op = true ∧ (t.seqStep = 1 ∨ t.seqStep = 2)) : Inv t := by
  obtain ⟨op', ho', hs, hf⟩ := h.position hi
  obtain rfl : op = op' := by rw [hop] at ho'; exact Option.some.inj ho'
  have hsl : stepList op t = stepList op s := stepList_congr (by rw [e]) (by rw [e]) (by rw [e]) hm
  have hcy : t.cyc = none := by rw [e]; exact hc
  have hin : t.inflight = true := by rw [e]; exact hi
  have hso : t.seqOp = some op := by rw [e]; exact hop
  exact {
    memWf := by rw [e]; exact h.memWf
    drawnInv := by rw [e]; exact h.drawnInv
    faultCode := by rw [e]; exact h.faultCode
    faultCodeLe := by rw [e]; exact h.faultCodeLe
    halted := fun hf' => by rw [e] at hf'; simp [hf] at hf'
    inflight := by rw [hin, hso]; rfl
    idle := fun hn => by simp [hin] at hn
    pins := fun _ => by rw [e]; exact h.pins hc
    err := by rw [e]; exact h.err
    seq := fun op' ho => by
      obtain rfl : op = op' := by rw [hso] at ho; exact Option.some.inj ho
      refine ⟨hs.1, ?_, ?_, by rw [hsl]; exact hk, fun c hc' => by simp [hcy] at hc'⟩
      · rw [e]; exact hs.2.1
      · rw [e]; exact hs.2.2.1
    cycle := fun c hc' => by simp [hcy] at hc'
    rst := fun hr' => .inr ⟨op, hso, hr hr'⟩ }

/-- A step that completes the operation. -/
theorem Inv.finish {s t : State} (h : Inv s) (hi : s.inflight = true) (hc : s.cyc = none) (hr : s.rstN = true)
   (e : t = { leaveOp s with bg := t.bg, result := t.result, lifecycle := t.lifecycle }) : Inv t := by
  obtain ⟨op', ho', hs, hf⟩ := h.position hi
  refine h.leave ⟨by rw [e]; rfl, by rw [e]; rfl⟩ (by rw [e]; exact ⟨rfl, rfl, rfl, rfl, rfl, rfl⟩)
    ?_ ?_ ?_ ?_ ?_ ?_
  · rw [e]; exact h.faultCode
  · rw [e]; exact h.faultCodeLe
  · rw [e]; exact (h.pins hc).1
  · rw [e]; exact fun _ => (h.pins hc).2 hf
  · rw [e]; intro he; have := hs.2.2.1; simp [leaveOp, this] at he
  · rw [e]; intro he; simp [leaveOp, hr] at he

/-- A move of the host's own: its program, its argument registers and its reads. -/
theorem Inv.ofHost {s t : State} (h : Inv s)
    (e : t = { s with args := t.args, prog := t.prog, rdata := t.rdata, script := t.script, tick := t.tick }) : Inv t := by
  have hsl : ∀ op, stepList op t = stepList op s := fun op =>
    stepList_congr (by rw [e]) (by rw [e]) (by rw [e]) (.inl (by rw [e]))
  exact {
      memWf := by rw [e]; exact h.memWf
      drawnInv := by rw [e]; exact h.drawnInv
      faultCode := by rw [e]; exact h.faultCode
      faultCodeLe := by rw [e]; exact h.faultCodeLe
      halted := by rw [e]; exact h.halted
      inflight := by rw [e]; exact h.inflight
      idle := by rw [e]; exact h.idle
      pins := by rw [e]; exact h.pins
      err := by rw [e]; exact h.err
      seq := fun op ho => by
        have := h.seq op (by rw [e] at ho; exact ho)
        unfold SeqInv at this ⊢
        rw [hsl]; rw [e]; exact this
      cycle := by rw [e]; exact h.cycle
      rst := by rw [e]; exact h.rst }

/-- Beginning the cycle the list has here. -/
theorem Inv.beginCycle {s t : State} (h : Inv s) (hi : s.inflight = true) (ht : s.timer = none) (hc : s.cyc = none)
    (hr : s.rstN = true) {op i : Instr} {c : PanelCommand} {p : Payload} (hop : s.seqOp = some op)
    (hf : (stepList op s)[s.seqStep]? = some (.cycle i)) (hcp : i.cycle? = some (c, p))
    (hrun : beginCycle c p s = .next t) : Inv t := by
  obtain ⟨op', ho', hs, hfa⟩ := h.position hi
  obtain rfl : op = op' := by rw [hop] at ho'; exact Option.some.inj ho'
  obtain ⟨t', ht', e, hk, hsome⟩ := beginCycle_spec c p s
  obtain rfl : t' = t := by rw [ht'] at hrun; exact Host.Outcome.next.inj hrun
  have hcmd : ∀ k, t'.cyc = some k → k.phase.command? = some c := by
    intro k hk'
    unfold Machine.beginCycle at ht'
    split at ht' <;> simp only [Host.Outcome.next.injEq] at ht' <;> subst ht' <;> simp at hk' <;> subst hk' <;> rfl
  have hsl : stepList op t' = stepList op s := stepList_congr (by rw [e]) (by rw [e]) (by rw [e]) (.inl (by rw [e]))
  exact {
    memWf := by rw [e]; exact h.memWf
    drawnInv := by rw [e]; exact h.drawnInv
    faultCode := by rw [e]; exact h.faultCode
    faultCodeLe := by rw [e]; exact h.faultCodeLe
    halted := fun hf' => by rw [e] at hf'; simp [hfa] at hf'
    inflight := by rw [e]; exact h.inflight
    idle := fun hn => by rw [e] at hn; simp [hi] at hn
    pins := fun hn => by simp [hn] at hsome
    err := by rw [e]; exact h.err
    seq := fun op' ho => by
      obtain rfl : op = op' := by rw [e] at ho; rw [hop] at ho; exact Option.some.inj ho
      refine ⟨hs.1, ?_, ?_, ?_, fun k hc' => ?_⟩
      · rw [e]; exact hs.2.1
      · rw [e]; exact hs.2.2.1
      · rw [hsl, e]; exact hs.2.2.2.1
      · refine ⟨i, c, ?_, ?_, .inr (hcmd k hc')⟩
        · rw [hsl, e]; exact hf
        · rw [(hk k hc').1]; exact hcp
    cycle := fun k hc' => ⟨(hk k hc').2 (h.pins hc).1, by rw [e]; exact ht⟩
    rst := fun hr' => by rw [e] at hr'; simp [hr] at hr' }

/-- An operation that is not Indeterminate has no error recorded. -/
theorem Inv.err_of_ready {s : State} (h : Inv s) (hl : s.lifecycle = .ready) : s.err = false := by
  cases he : s.err
  · rfl
  · exact absurd (h.err he) (by simp [hl])

end Sys2Proof.Machine
end

