-- ==== Sys2Proof/Laws/Runs.lean ====
section
/-! SUPPORT. Undisturbed runs: each kind of step of a step list, and a whole cycle, as one link of a chain. -/

namespace Sys2Proof.Machine

theorem quietRun_add (m n : Nat) (s : State) :
    quietRun (m + n) s =
      match quietRun m s with
      | .next t => quietRun n t
      | .fault r => .fault r
      | .refused r => .refused r := by
  induction m generalizing s with
  | zero => simp [quietRun]
  | succ m ih =>
    rw [Nat.add_right_comm]
    simp only [quietRun]
    cases applyMove (quietTurn s) s <;> simp [ih]

/-- An undisturbed run leads from `s` to `t`. -/
def Quiet (s t : State) : Prop := ∃ n, quietRun n s = .next t

theorem Quiet.refl (s : State) : Quiet s s := ⟨0, rfl⟩

theorem Quiet.trans {s t u : State} : Quiet s t → Quiet t u → Quiet s u := by
  rintro ⟨m, hm⟩ ⟨n, hn⟩
  exact ⟨m + n, by rw [quietRun_add, hm]; exact hn⟩

/-- The state after a whole Burst cycle. -/
def doCycle (c : PanelCommand) (bs : List Byte) (s : State) : State :=
  { s with
    trace := s.trace ++ burstEvents c bs, panel := s.panel.afterCycle c bs, cyc := none, seqStep := s.seqStep + 1,
    csN := true, dc := Config.dcDataLevel }

@[simp] theorem doCycle_args (c : PanelCommand) (bs : List Byte) (s : State) : (doCycle c bs s).args = s.args := rfl
@[simp] theorem doCycle_latched (c : PanelCommand) (bs : List Byte) (s : State) : (doCycle c bs s).latched = s.latched := rfl
@[simp] theorem doCycle_seqOp (c : PanelCommand) (bs : List Byte) (s : State) : (doCycle c bs s).seqOp = s.seqOp := rfl
@[simp] theorem doCycle_seqStep (c : PanelCommand) (bs : List Byte) (s : State) : (doCycle c bs s).seqStep = s.seqStep + 1 := rfl
@[simp] theorem doCycle_inflight (c : PanelCommand) (bs : List Byte) (s : State) : (doCycle c bs s).inflight = s.inflight := rfl
@[simp] theorem doCycle_err (c : PanelCommand) (bs : List Byte) (s : State) : (doCycle c bs s).err = s.err := rfl
@[simp] theorem doCycle_fault (c : PanelCommand) (bs : List Byte) (s : State) : (doCycle c bs s).fault = s.fault := rfl
@[simp] theorem doCycle_faultCode (c : PanelCommand) (bs : List Byte) (s : State) : (doCycle c bs s).faultCode = s.faultCode := rfl
@[simp] theorem doCycle_mode (c : PanelCommand) (bs : List Byte) (s : State) : (doCycle c bs s).mode = s.mode := rfl
@[simp] theorem doCycle_bg (c : PanelCommand) (bs : List Byte) (s : State) : (doCycle c bs s).bg = s.bg := rfl
@[simp] theorem doCycle_lifecycle (c : PanelCommand) (bs : List Byte) (s : State) : (doCycle c bs s).lifecycle = s.lifecycle := rfl
@[simp] theorem doCycle_errCode (c : PanelCommand) (bs : List Byte) (s : State) : (doCycle c bs s).errCode = s.errCode := rfl
@[simp] theorem doCycle_result (c : PanelCommand) (bs : List Byte) (s : State) : (doCycle c bs s).result = s.result := rfl
@[simp] theorem doCycle_csN (c : PanelCommand) (bs : List Byte) (s : State) : (doCycle c bs s).csN = true := rfl
@[simp] theorem doCycle_dc (c : PanelCommand) (bs : List Byte) (s : State) : (doCycle c bs s).dc = Config.dcDataLevel := rfl
@[simp] theorem doCycle_rstN (c : PanelCommand) (bs : List Byte) (s : State) : (doCycle c bs s).rstN = s.rstN := rfl
@[simp] theorem doCycle_cyc (c : PanelCommand) (bs : List Byte) (s : State) : (doCycle c bs s).cyc = none := rfl
@[simp] theorem doCycle_timer (c : PanelCommand) (bs : List Byte) (s : State) : (doCycle c bs s).timer = s.timer := rfl
@[simp] theorem doCycle_trace (c : PanelCommand) (bs : List Byte) (s : State) : (doCycle c bs s).trace = s.trace ++ burstEvents c bs := rfl
@[simp] theorem doCycle_panel (c : PanelCommand) (bs : List Byte) (s : State) : (doCycle c bs s).panel = s.panel.afterCycle c bs := rfl
@[simp] theorem doCycle_mem (c : PanelCommand) (bs : List Byte) (s : State) : (doCycle c bs s).mem = s.mem := rfl
@[simp] theorem doCycle_drawn (c : PanelCommand) (bs : List Byte) (s : State) : (doCycle c bs s).drawn = s.drawn := rfl
@[simp] theorem doCycle_cfg (c : PanelCommand) (bs : List Byte) (s : State) : (doCycle c bs s).cfg = s.cfg := rfl
@[simp] theorem doCycle_tainted (c : PanelCommand) (bs : List Byte) (s : State) : (doCycle c bs s).tainted = s.tainted := rfl
@[simp] theorem doCycle_prog (c : PanelCommand) (bs : List Byte) (s : State) : (doCycle c bs s).prog = s.prog := rfl
@[simp] theorem doCycle_rdata (c : PanelCommand) (bs : List Byte) (s : State) : (doCycle c bs s).rdata = s.rdata := rfl
@[simp] theorem doCycle_script (c : PanelCommand) (bs : List Byte) (s : State) : (doCycle c bs s).script = s.script := rfl
@[simp] theorem doCycle_tick (c : PanelCommand) (bs : List Byte) (s : State) : (doCycle c bs s).tick = s.tick := rfl

/-- The sequencer can take a step of its list. -/
structure Ready (s : State) : Prop where
  inflight : s.inflight = true
  timer : s.timer = none
  cyc : s.cyc = none

theorem quiet_step {s : State} {st : SeqStep} {t : State} (h : Ready s) (hf : seqFetch s = some st)
    (hr : runSeqStep st quietDraw s = .next t) : Quiet s t := by
  refine ⟨1, ?_⟩
  simp [quietRun, quietTurn, h.timer, applyMove, sequencerMove_fetch quietDraw h.inflight h.timer h.cyc hf, hr]

/-- A cycle whose payload can be read, from its fetch to its end. -/
theorem quiet_cycle {s : State} {c : PanelCommand} {p : Payload} {bs : List Byte} (h : Ready s)
    (hb : s.cfg.framing = .burst) (hf : seqFetch s = some (.cycle (.ofCycle c p))) (hy : Yields s p bs) :
    Quiet s (doCycle c bs s) := by
  have h1 : runSeqStep (.cycle (.ofCycle c p)) quietDraw s =
      .next (setCycle ⟨.burst, p, .dcCmd c, 0⟩ (driveCs false s)) := by
    simp [runSeqStep, exec_ofCycle, beginCycle, hb, setCycle]
  refine (quiet_step h hf h1).trans ⟨bs.length + 4, ?_⟩
  have := (inCycle_burst (c := c) (p := p) (bs := bs) (s := setCycle ⟨.burst, p, .dcCmd c, 0⟩ (driveCs false s))
    (ds := List.replicate (bs.length + 4) quietDraw) (by simpa using h.inflight) (by simpa using h.timer) (by simp)
    (hy.congr (by simp) (by simp) (by simp) (by simp)) (by simp)
    (fun d hd => by rw [(List.mem_replicate.1 hd).2]; rfl)).quietRun
    (fun d hd => (List.mem_replicate.1 hd).2)
  rw [List.length_replicate] at this
  rw [this]
  simp [endCycle, driveCs, driveDc, emitBytes, emitCommand, setCycle, doCycle, burstEvents, PanelRecord.afterCycle]

/-- A delay: its event, then the timer's move. -/
theorem quiet_delay {s : State} {t : Nat} (h : Ready s) (hf : seqFetch s = some (.delay t)) :
    Quiet s (timerMove (advance 1 (startDelay t s))) := by
  refine (quiet_step (t := advance 1 (startDelay t s)) h hf rfl).trans ⟨1, ?_⟩
  simp [quietRun, quietTurn, applyMove]

/-- A busy sample of an idle controller jumps past the poll. -/
theorem quiet_sample {s : State} (h : Ready s) (hf : seqFetch s = some .sample) :
    Quiet s (advance 2 (emit (.sample true) s)) :=
  quiet_step h hf (by simp [runSeqStep, sampleStep, quietDraw, Config.busyIdleLevel])

theorem yields_bytes (s : State) (bs : List Byte) : Yields s (.bytes bs) bs := ⟨rfl, fun _ _ _ => rfl⟩

theorem yields_lut (s : State) (f : Family) (k : LutKind) : Yields s (.lut f k) (Config.lut f k) :=
  ⟨rfl, fun _ _ _ => rfl⟩

theorem yields_fill (s : State) (b : Byte) (n : Nat) : Yields s (.fill b n) (List.replicate n b) :=
  ⟨by simp [Payload.length], fun i d h => by
    have h' : i < n := by simpa using h
    simp [payloadByte, h']⟩

theorem HoldsBuffer.yields_buf {s : State} {base : Nat} {bs : List Byte} (h : HoldsBuffer s base bs) :
    Yields s (.buf base bs.length) bs := by
  refine ⟨rfl, fun i d hi => ?_⟩
  obtain ⟨ha, hr⟩ := h.2 i hi
  rw [List.getElem?_eq_getElem hi] at hr ⊢
  simp only [payloadByte, hi, if_true]
  exact memRead_held d ha (by simp [h.1]) hr

theorem HoldsBuffer.yields_bufCompl {s : State} {base : Nat} {bs : List Byte} (h : HoldsBuffer s base bs) :
    Yields s (.bufCompl base bs.length) (bs.map fun b => ~~~b) := by
  refine ⟨by simp [Payload.length], fun i d hi => ?_⟩
  have hi' : i < bs.length := by simpa using hi
  have := h.yields_buf.2 i d hi'
  simp only [payloadByte, hi', if_true] at this ⊢
  simp [this]

theorem HoldsBuffer.congr {s t : State} {base : Nat} {bs : List Byte} (h : HoldsBuffer s base bs)
    (hm : t.mem = s.mem) (hd : t.drawn = s.drawn) (hc : t.cfg = s.cfg) (ht : t.tainted = s.tainted) : HoldsBuffer t base bs :=
  ⟨ht.trans h.1, fun i hi => by
    have := h.2 i hi
    simpa [admits, hostByte?, hm, hd, hc] using this⟩

/-! ### Undisturbed runs of several agents -/

/-- A run of two move lists is the run of the first, then of the second. -/
theorem runMoves_append {ms ns : List Move} {s t : State} (h : runMoves ms s = .next t) :
    runMoves (ms ++ ns) s = runMoves ns t := by
  induction ms generalizing s with
  | nil =>
    simp only [runMoves, Host.Outcome.next.injEq] at h
    subst h
    rfl
  | cons m ms ih =>
    simp only [runMoves, List.cons_append] at h ⊢
    cases hm : applyMove m s with
    | next u =>
      rw [hm] at h
      exact ih h
    | fault r => simp [hm] at h
    | refused r => simp [hm] at h

theorem LeadsTo.refl (s : State) : LeadsTo s s := ⟨[], by simp [Undisturbed], rfl⟩

theorem LeadsTo.trans {s t u : State} : LeadsTo s t → LeadsTo t u → LeadsTo s u := by
  rintro ⟨ms, hm, h⟩ ⟨ns, hn, h'⟩
  refine ⟨ms ++ ns, fun m h => ?_, by rw [runMoves_append h, h']⟩
  rcases List.mem_append.1 h with h | h
  · exact hm m h
  · exact hn m h

/-- A run of the quiet environment is an undisturbed run. -/
theorem Quiet.leadsTo {s t : State} : Quiet s t → LeadsTo s t := by
  rintro ⟨n, h⟩
  induction n generalizing s with
  | zero =>
    simp only [quietRun, Host.Outcome.next.injEq] at h
    exact h ▸ .refl s
  | succ n ih =>
    simp only [quietRun] at h
    cases hm : applyMove (quietTurn s) s with
    | next u =>
      rw [hm] at h
      obtain ⟨ms, hms, hr⟩ := ih h
      refine ⟨quietTurn s :: ms, fun m h' => ?_, by simp [runMoves, hm, hr]⟩
      rcases List.mem_cons.1 h' with rfl | h'
      · unfold quietTurn
        split
        · exact .inl rfl
        · exact .inr ⟨_, rfl, rfl⟩
      · exact hms m h'
    | fault r => simp [hm] at h
    | refused r => simp [hm] at h

end Sys2Proof.Machine
end

