-- ==== Sys2Proof/Laws/Chains.lean ====
section
/-! SUPPORT. Links of an operation's run: from a step of its list to a later one by an undisturbed run, a whole row of
cycles being one link. -/

namespace Sys2Proof.Machine

/-- What the invariant says of a block between operations. -/
structure Idle (s : State) : Prop where
  seqOp : s.seqOp = none
  seqStep : s.seqStep = 0
  inflight : s.inflight = false
  cyc : s.cyc = none
  timer : s.timer = none
  tainted : s.tainted = []
  csN : s.csN = true
  dc : s.dc = Config.dcDataLevel
  rstN : s.rstN = true
  fault : s.fault = false

/-- The fields of a block that accepts an operation. -/
theorem Inv.idle_fields {s : State} (h : Inv s) (ha : Accepting s) : Idle s := by
  obtain ⟨h0, hc, ht, hta⟩ := h.idle ha.2
  have hq := h.inflight
  rw [ha.2] at hq
  exact ⟨by simpa using hq.symm, h0, ha.2, hc, ht, hta, (h.pins hc).1, (h.pins hc).2 ha.1, h.rstN_idle ha.2 ha.1, ha.1⟩

/-- SEQ stands at step `k` of the list `l` of `op`, on this hardware, between cycles and delays. -/
structure On (op : Instr) (l : List SeqStep) (k : Nat) (s : State) : Prop where
  ready : Ready s
  seqOp : s.seqOp = some op
  seqStep : s.seqStep = k
  list : stepList op s = l
  framing : s.cfg.framing = .burst
  csN : s.csN = true
  dc : s.dc = Config.dcDataLevel

theorem On.fetch {op : Instr} {l : List SeqStep} {k : Nat} {s : State} (h : On op l k s) {st : SeqStep}
    (hk : l[k]? = some st) : seqFetch s = some st := by
  rw [seqFetch, h.seqOp]
  simp only [h.list, h.seqStep, hk]

/-- An accepted operation stands at the head of its list. -/
theorem On.start {op : Instr} {l : List SeqStep} {s : State} (h : Idle s) (hb : s.cfg.framing = .burst)
    (hl : stepList op (startOp op s) = l) : On op l 0 (startOp op s) :=
  ⟨⟨rfl, h.timer, h.cyc⟩, rfl, rfl, hl, hb, h.csN, h.dc⟩

/-- The record of the panel after several cycles. -/
def PanelRecord.afterCycles (cs : List (PanelCommand × List Byte)) (r : PanelRecord) : PanelRecord :=
  cs.foldl (fun r c => r.afterCycle c.1 c.2) r

/-- The state after a row of whole cycles. -/
def doCycles (cs : List (PanelCommand × List Byte)) (s : State) : State :=
  { s with
    trace := s.trace ++ cs.flatMap (fun c => burstEvents c.1 c.2), panel := s.panel.afterCycles cs, cyc := none
    seqStep := s.seqStep + cs.length, csN := true, dc := Config.dcDataLevel }

theorem doCycles_cons (c : PanelCommand × List Byte) (cs : List (PanelCommand × List Byte)) (s : State) :
    doCycles (c :: cs) s = doCycles cs (doCycle c.1 c.2 s) := by
  simp [doCycles, doCycle, PanelRecord.afterCycles, Nat.add_assoc, Nat.add_comm 1]

/-- A row of cycles whose payloads can be read. -/
theorem On.cycles {op : Instr} {l rest : List SeqStep} (cs : List (PanelCommand × Payload × List Byte)) {k : Nat}
    {s : State} (h : On op l k s)
    (hl : l.drop k = cs.map (fun c => .cycle (.ofCycle c.1 c.2.1)) ++ rest) (hy : ∀ c ∈ cs, Yields s c.2.1 c.2.2) :
    LeadsTo s (doCycles (cs.map fun c => (c.1, c.2.2)) s) ∧
      On op l (k + cs.length) (doCycles (cs.map fun c => (c.1, c.2.2)) s) := by
  induction cs generalizing k s with
  | nil =>
    have e : doCycles [] s = s := by
      obtain ⟨⟩ := s
      obtain ⟨⟨_, _, h1⟩, _, _, _, _, h2, h3⟩ := h
      simp only at h1 h2 h3
      simp [doCycles, PanelRecord.afterCycles, h1, h2, h3]
    simpa [e] using ⟨LeadsTo.refl s, h⟩
  | cons c cs ih =>
    have hk : l[k]? = some (.cycle (.ofCycle c.1 c.2.1)) := by
      have := congrArg (·[0]?) hl
      simpa using this
    have h1 := (quiet_cycle h.ready h.framing (h.fetch hk) (hy c List.mem_cons_self)).leadsTo
    have ho : On op l (k + 1) (doCycle c.1 c.2.2 s) :=
      ⟨⟨h.ready.inflight, h.ready.timer, rfl⟩, h.seqOp, by rw [doCycle_seqStep, h.seqStep],
        (stepList_congr rfl rfl rfl (.inl rfl)).trans h.list, h.framing, rfl, rfl⟩
    have hd : l.drop (k + 1) = cs.map (fun c => .cycle (.ofCycle c.1 c.2.1)) ++ rest := by
      have := congrArg (List.drop 1) hl
      simpa [List.drop_drop, Nat.add_comm] using this
    obtain ⟨h2, h3⟩ := ih ho hd fun c' hc' => (hy c' (List.mem_cons_of_mem _ hc')).congr rfl rfl rfl rfl
    rw [List.map_cons, doCycles_cons]
    exact ⟨h1.trans h2, by simpa [Nat.add_assoc, Nat.add_comm 1] using h3⟩

/-- The state after a delay. -/
def doDelay (t : Nat) (s : State) : State :=
  { s with seqStep := s.seqStep + 1, trace := s.trace ++ [.delay t] }

/-- A delay, ended by the timer. -/
theorem On.delay {op : Instr} {l : List SeqStep} {k t : Nat} {s : State} (h : On op l k s)
    (hk : l[k]? = some (.delay t)) : LeadsTo s (doDelay t s) ∧ On op l (k + 1) (doDelay t s) := by
  have e : timerMove (advance 1 (startDelay t s)) = doDelay t s := by
    simp [timerMove, advance, startDelay, doDelay, h.ready.timer]
  refine ⟨e ▸ (quiet_delay h.ready (h.fetch hk)).leadsTo, ?_⟩
  exact ⟨⟨h.ready.inflight, h.ready.timer, h.ready.cyc⟩, h.seqOp, by simp [doDelay, h.seqStep],
    (stepList_congr rfl rfl rfl (.inl rfl)).trans h.list, h.framing, h.csN, h.dc⟩

/-- A move of RST_N. -/
theorem On.rst {op : Instr} {l : List SeqStep} {k : Nat} {v : Bool} {s : State} (h : On op l k s)
    (hk : l[k]? = some (.rst v)) :
    LeadsTo s (advance 1 (driveRst v s)) ∧ On op l (k + 1) (advance 1 (driveRst v s)) := by
  refine ⟨(quiet_step h.ready (h.fetch hk) rfl).leadsTo, ?_⟩
  exact ⟨⟨h.ready.inflight, h.ready.timer, h.ready.cyc⟩, h.seqOp, by simp [h.seqStep],
    (stepList_congr rfl rfl rfl (.inl rfl)).trans h.list, h.framing, h.csN, h.dc⟩

/-- The last step of an operation, or any other that leaves the list. -/
theorem On.last {op : Instr} {l : List SeqStep} {k : Nat} {st : SeqStep} {s t : State} (h : On op l k s)
    (hk : l[k]? = some st) (hr : runSeqStep st quietDraw s = .next t) : LeadsTo s t :=
  (quiet_step h.ready (h.fetch hk) hr).leadsTo

/-- The checks passed, MODE written (44_refresh.md R179, R182): one step with no event. -/
theorem On.enter {op : Instr} {l : List SeqStep} {k : Nat} {st : SeqStep} {f : Family} {s : State} (h : On op l k s)
    (hk : l[k]? = some st) (hd : op ≠ .displayFrame)
    (hr : runSeqStep st quietDraw s = .next (advance 1 { s with mode := f })) :
    LeadsTo s (advance 1 { s with mode := f }) ∧ On op l (k + 1) (advance 1 { s with mode := f }) := by
  refine ⟨h.last hk hr, ?_⟩
  have hl : stepList op (advance 1 { s with mode := f }) = stepList op s := stepList_congr rfl rfl rfl (.inr hd)
  exact ⟨⟨h.ready.inflight, h.ready.timer, h.ready.cyc⟩, h.seqOp, by simp [h.seqStep],
    hl.trans h.list, h.framing, h.csN, h.dc⟩

/-- The state after a wait by the pin. -/
def doWait (n : Nat) (s : State) : State :=
  { s with seqStep := s.seqStep + 2, trace := s.trace ++ waitEvents n }

/-- A wait by the pin that ends after some number of busy samples (41_busy_sync.md R131). -/
theorem On.wait {op : Instr} {l : List SeqStep} (n : Nat) {k : Nat} {s : State} (h : On op l k s)
    (h0 : l[k]? = some .sample) (h1 : l[k + 1]? = some (.poll 1)) :
    LeadsTo s (doWait n s) ∧ On op l (k + 2) (doWait n s) := by
  constructor
  swap
  · exact ⟨⟨h.ready.inflight, h.ready.timer, h.ready.cyc⟩, h.seqOp, by simp [doWait, h.seqStep],
      (stepList_congr rfl rfl rfl (.inl rfl)).trans h.list, h.framing, h.csN, h.dc⟩
  induction n generalizing s with
  | zero => exact (quiet_sample h.ready (h.fetch h0)).leadsTo
  | succ n ih =>
    have hr := h.ready
    let t : State := { s with trace := s.trace ++ [.sample false, .delay Config.tPoll] }
    have ho : On op l k t :=
      ⟨⟨hr.inflight, hr.timer, hr.cyc⟩, h.seqOp, h.seqStep, (stepList_congr rfl rfl rfl (.inl rfl)).trans h.list,
        h.framing, h.csN, h.dc⟩
    have hp : On op l (k + 1) (advance 1 (emit (.sample false) s)) :=
      ⟨⟨hr.inflight, hr.timer, hr.cyc⟩, h.seqOp, by simp [h.seqStep],
        (stepList_congr rfl rfl rfl (.inl rfl)).trans h.list, h.framing, h.csN, h.dc⟩
    have e1 : sequencerMove busyDraw s = .next (advance 1 (emit (.sample false) s)) := by
      rw [sequencerMove_fetch busyDraw hr.inflight hr.timer hr.cyc (h.fetch h0)]
      simp [runSeqStep, sampleStep, busyDraw, Config.busyIdleLevel]
    have e2 : sequencerMove quietDraw (advance 1 (emit (.sample false) s)) =
        .next (pollStep 1 (advance 1 (emit (.sample false) s))) :=
      sequencerMove_fetch quietDraw hp.ready.inflight hp.ready.timer hp.ready.cyc (hp.fetch h1)
    have e3 : timerMove (pollStep 1 (advance 1 (emit (.sample false) s))) = t := by
      simp [t, timerMove, pollStep, goBack, startDelay, advance, emit, hr.timer]
    have first : LeadsTo s t := by
      refine ⟨[.sequencer busyDraw, .sequencer quietDraw, .timer], ?_, ?_⟩
      · simp only [Undisturbed, List.mem_cons, List.not_mem_nil, or_false]
        rintro m (rfl | rfl | rfl)
        · exact .inr ⟨_, rfl, rfl⟩
        · exact .inr ⟨_, rfl, rfl⟩
        · exact .inl rfl
      · simp only [runMoves, applyMove, e1, e2, e3]
    have e : doWait (n + 1) s = doWait n t := by simp [doWait, waitEvents, t]
    rw [e]
    exact first.trans (ih ho)

/-! ### The rows of cycles that several operations share -/

/-- The cycles of `LoadLuts` for a family, with their payload sources and bytes (43_lut.md R162, R163). -/
def lutRow : Family → List (PanelCommand × Payload × List Byte)
  | .full => row .full
  | .quick => (.vcmDcSetting, .bytes [Config.quickVdcOverride], [Config.quickVdcOverride]) :: row .quick
where
  row (f : Family) : List (PanelCommand × Payload × List Byte) :=
    [(.vcomAndDataIntervalSetting, .bytes [Config.vcomDataInterval], [Config.vcomDataInterval]),
     (.lutVcom, .lut f .vcom, Config.lut f .vcom), (.lutWW, .lut f .ww, Config.lut f .ww),
     (.lutBW, .lut f .bw, Config.lut f .bw), (.lutWB, .lut f .wb, Config.lut f .wb),
     (.lutBB, .lut f .bb, Config.lut f .bb)]

theorem lutRow_bytes (f : Family) : (lutRow f).map (fun c => (c.1, c.2.2)) = lutBytes f := by cases f <;> rfl

theorem lutRow_steps (f : Family) : (lutRow f).map (fun c => .cycle (.ofCycle c.1 c.2.1)) = loadLuts (some f) := by
  cases f <;> rfl

theorem lutRow_yields (f : Family) (s : State) : ∀ c ∈ lutRow f, Yields s c.2.1 c.2.2 := by
  cases f <;> simp [lutRow, lutRow.row, yields_bytes, yields_lut]

theorem resolutionBytes_eq : resolutionBytes = [0x68#8, 0x00#8, 0xD4#8] := by decide

theorem len_eq : Config.len = 2756 := by decide

end Sys2Proof.Machine
end

