-- ==== Sys2Proof/Laws/Operands.lean ====
section
/-! SUPPORT. The window descriptor, said once: its bytes where they all fit (30_encoding.md R93), and none where one does
not. -/

namespace Sys2Proof.Machine

theorem byteOfInt_nat {n : Nat} (h : n ≤ 255) : byteOfInt (n : Int) = some (BitVec.ofNat 8 n) := by
  unfold byteOfInt
  rw [if_pos (by omega)]
  simp

theorem byteOfInt_none {z : Int} (h : ¬ (0 ≤ z ∧ z ≤ 255)) : byteOfInt z = none := if_neg h

/-- The descriptor's bytes where they fit. -/
theorem windowBytes_fits {x y w h : Nat} (hf : WindowFits x y w h) :
    windowBytes x y w h = some [.ofNat 8 x, .ofNat 8 (x + w - 1), .ofNat 8 (y / 256), .ofNat 8 (y % 256),
      .ofNat 8 ((y + h) / 256), .ofNat 8 ((y + h) % 256 - 1)] := by
  obtain ⟨h1, h2, h3, h4, h5, h6⟩ := hf
  unfold windowBytes windowInts
  rw [show ((x : Int) + w - 1) = ((x + w - 1 : Nat) : Int) by omega,
    show ((((y + h) % 256 : Nat) : Int) - 1) = (((y + h) % 256 - 1 : Nat) : Int) by omega]
  simp only [List.mapM_cons, List.mapM_nil, byteOfInt_nat h1, byteOfInt_nat (show x + w - 1 ≤ 255 by omega),
    byteOfInt_nat h4, byteOfInt_nat (show y % 256 ≤ 255 by omega), byteOfInt_nat h5,
    byteOfInt_nat (show (y + h) % 256 - 1 ≤ 255 by omega)]
  rfl

/-- There is no descriptor where a byte does not fit. -/
theorem windowBytes_none {x y w h : Nat} (hf : ¬ WindowFits x y w h) : windowBytes x y w h = none := by
  by_contra hc
  apply hf
  obtain ⟨l, hl⟩ := Option.ne_none_iff_exists'.1 hc
  unfold windowBytes windowInts at hl
  simp only [List.mapM_cons, Option.bind_eq_bind, Option.bind_eq_some_iff] at hl
  obtain ⟨d0, h0, _, ⟨d1, h1, _, ⟨d2, h2, _, ⟨d3, h3, _, ⟨d4, h4, _, ⟨d5, h5, _⟩, _⟩, _⟩, _⟩, _⟩, _⟩ := hl
  have fits : ∀ {z : Int} {b : Byte}, byteOfInt z = some b → 0 ≤ z ∧ z ≤ 255 := by
    intro z b hz
    by_contra hn
    rw [byteOfInt_none hn] at hz
    cases hz
  have := fits h0
  have := fits h1
  have := fits h2
  have := fits h4
  have := fits h5
  refine ⟨?_, ?_, ?_, ?_, ?_, ?_⟩ <;> omega

/-- UPDATE_PARTIAL_FRAME's checks over the operands' arithmetic (44_refresh.md R182). -/
theorem enterPartialStep_eq (s : State) :
    enterPartialStep s =
      if s.latched.bufLen.toNat ≠ s.latched.w.toNat * s.latched.h.toNat / 8 then raiseFault codePartialLength s
      else if s.latched.x.toNat % 8 ≠ 0 then raiseFault codePartialAlignX s
      else if s.latched.w.toNat % 8 ≠ 0 then raiseFault codePartialAlignW s
      else if s.mode ≠ .full then raiseFault codePartialModeNotFull s
      else if ¬ WindowFits s.latched.x.toNat s.latched.y.toNat s.latched.w.toNat s.latched.h.toNat then
        raiseFault codeWindowRange s
      else advance 1 { s with mode := .quick } := by
  have hw : (latchedWindow s.latched = none) =
      ¬ WindowFits s.latched.x.toNat s.latched.y.toNat s.latched.w.toNat s.latched.h.toNat :=
    propext ⟨fun hn hf => by unfold latchedWindow at hn; rw [windowBytes_fits hf] at hn; (cases hn), windowBytes_none⟩
  unfold enterPartialStep
  simp only [hw]

end Sys2Proof.Machine
end

