-- ==== Sys2Proof/Laws/PerInstr.lean ====
section
/-! SUPPORT. Statements made per instruction: decoding what the encoder writes gives the instruction back, its payload as
the bytes a reader of the bus sees. -/

namespace Sys2Proof.Laws.EncodeDecode

/-- Decoding the encoding of `i` gives `i` (30_encoding.md R82 to R84, R90). -/
def Statement (i : Instr) : Prop := ∀ e, encode i = some e → decode e = .ok i.literal

theorem reserved0 : Statement .reserved0 := by
  intro e h; cases h; decide

theorem init : Statement .init := by
  intro e h; cases h; decide

theorem sleep : Statement .sleep := by
  intro e h; cases h; decide

theorem updateFrame : Statement .updateFrame := by
  intro e h; cases h; decide

theorem updatePartialFrame : Statement .updatePartialFrame := by
  intro e h; cases h; decide

theorem displayFrame : Statement .displayFrame := by
  intro e h; cases h; decide

theorem updateAndDisplayFrame : Statement .updateAndDisplayFrame := by
  intro e h; cases h; decide

theorem wakeUp : Statement .wakeUp := by
  intro e h; cases h; decide

theorem clearFrame : Statement .clearFrame := by
  intro e h; cases h; decide

theorem setBackground (c : Color) : Statement (.setBackground c) := by
  intro e h; cases h; cases c <;> decide

theorem getBackground : Statement .getBackground := by
  intro e h; cases h; decide

theorem getWidth : Statement .getWidth := by
  intro e h; cases h; decide

theorem getHeight : Statement .getHeight := by
  intro e h; cases h; decide

theorem setLut (sel : LutSel) : Statement (.setLut sel) := by
  intro e h; cases h; cases sel <;> decide

theorem waitUntilIdle : Statement .waitUntilIdle := by
  intro e h; cases h; decide

theorem reservedF : Statement .reservedF := by
  intro e h; cases h; decide

theorem powerSetting (p : Payload) : Statement (.powerSetting p) := fun _ h => decode_encodeCycle h

theorem boosterSoftStart (p : Payload) : Statement (.boosterSoftStart p) := fun _ h => decode_encodeCycle h

theorem powerOn (p : Payload) : Statement (.powerOn p) := fun _ h => decode_encodeCycle h

theorem panelSetting (p : Payload) : Statement (.panelSetting p) := fun _ h => decode_encodeCycle h

theorem pllControl (p : Payload) : Statement (.pllControl p) := fun _ h => decode_encodeCycle h

theorem resolutionSetting (p : Payload) : Statement (.resolutionSetting p) := fun _ h => decode_encodeCycle h

theorem vcmDcSetting (p : Payload) : Statement (.vcmDcSetting p) := fun _ h => decode_encodeCycle h

theorem vcomAndDataIntervalSetting (p : Payload) : Statement (.vcomAndDataIntervalSetting p) := fun _ h => decode_encodeCycle h

theorem lutVcom (p : Payload) : Statement (.lutVcom p) := fun _ h => decode_encodeCycle h

theorem lutWW (p : Payload) : Statement (.lutWW p) := fun _ h => decode_encodeCycle h

theorem lutBW (p : Payload) : Statement (.lutBW p) := fun _ h => decode_encodeCycle h

theorem lutWB (p : Payload) : Statement (.lutWB p) := fun _ h => decode_encodeCycle h

theorem lutBB (p : Payload) : Statement (.lutBB p) := fun _ h => decode_encodeCycle h

theorem dataStartTransmission1 (p : Payload) : Statement (.dataStartTransmission1 p) := fun _ h => decode_encodeCycle h

theorem dataStartTransmission2 (p : Payload) : Statement (.dataStartTransmission2 p) := fun _ h => decode_encodeCycle h

theorem displayRefresh (p : Payload) : Statement (.displayRefresh p) := fun _ h => decode_encodeCycle h

theorem partialIn (p : Payload) : Statement (.partialIn p) := fun _ h => decode_encodeCycle h

theorem partialWindow (p : Payload) : Statement (.partialWindow p) := fun _ h => decode_encodeCycle h

theorem getStatus (p : Payload) : Statement (.getStatus p) := fun _ h => decode_encodeCycle h

theorem deepSleep (p : Payload) : Statement (.deepSleep p) := fun _ h => decode_encodeCycle h

theorem forceTemperature (p : Payload) : Statement (.forceTemperature p) := fun _ h => decode_encodeCycle h

end Sys2Proof.Laws.EncodeDecode
end

