-- ==== Sys2Proof/Tests/Slice0.lean ====
section
/-! SUPPORT. Tests: ill-formed terms refused, words written out from the encoding tables, one step of each instruction on a
small state with the result of a vector of 95_test_vectors.md or of the rule named, and a witness of the hypotheses of every
obligation that has hypotheses. -/

namespace Sys2Proof.Tests

open Sys2Proof.Machine

/-! ### Ill-formed terms -/

/-- LUTSEL = 3 (R83). -/
theorem test_form_reservedLutSel : Instr.formError (.setLut .reserved) = some .reservedLutSel := by decide

/-- PowerSetting takes five bytes (R91). -/
theorem test_form_payloadLength : Instr.formError (.powerSetting (.bytes [1, 2, 3, 4])) = some (.payloadLength 5) := by decide

/-- PowerOn takes no buffer (R91). -/
theorem test_form_payloadSource : Instr.formError (.powerOn (.buf 0 0)) = some .payloadSource := by decide

/-- The well-formed neighbours of the three. -/
theorem test_form_good : Instr.formError (.setLut .quick) = none ∧ Instr.formError (.powerSetting (.bytes [1, 2, 3, 4, 5])) = none ∧
    Instr.formError (.powerOn (.bytes [])) = none := by decide

/-! ### Words written out bit by bit -/

/-- Host operations, the OP column of R82, LUTSEL at bits 5:4 (R83), COLOR at bit 8 (R84). -/
theorem test_decode_host :
    decodeCtrl 0b00000000000000000000000000000001#32 = .init ∧
    decodeCtrl 0b00000000000000000000000000000010#32 = .sleep ∧
    decodeCtrl 0b00000000000000000000000000000011#32 = .updateFrame ∧
    decodeCtrl 0b00000000000000000000000000000100#32 = .updatePartialFrame ∧
    decodeCtrl 0b00000000000000000000000000000101#32 = .displayFrame ∧
    decodeCtrl 0b00000000000000000000000000000110#32 = .updateAndDisplayFrame ∧
    decodeCtrl 0b00000000000000000000000000000111#32 = .wakeUp ∧
    decodeCtrl 0b00000000000000000000000000001000#32 = .clearFrame ∧
    decodeCtrl 0b00000000000000000000000100001001#32 = .setBackground .white ∧
    decodeCtrl 0b00000000000000000000000000001001#32 = .setBackground .black ∧
    decodeCtrl 0b00000000000000000000000000001010#32 = .getBackground ∧
    decodeCtrl 0b00000000000000000000000000001011#32 = .getWidth ∧
    decodeCtrl 0b00000000000000000000000000001100#32 = .getHeight ∧
    decodeCtrl 0b00000000000000000000000000101101#32 = .setLut .quick ∧
    decodeCtrl 0b00000000000000000000000000111101#32 = .setLut .reserved ∧
    decodeCtrl 0b00000000000000000000000000001110#32 = .waitUntilIdle ∧
    decodeCtrl 0b00000000000000000000000000000000#32 = .reserved0 ∧
    decodeCtrl 0b00000000000000000000000000001111#32 = .reservedF := by decide

/-- Panel commands: the command byte, then the payload (R90), for each of the twenty-one. -/
theorem test_decode_panel (c : PanelCommand) :
    decode (.cycle [Config.code c, 0x68#8, 0x00#8, 0xD4#8]) = .ok (.ofCycle c (.bytes [0x68#8, 0x00#8, 0xD4#8])) := by
  simp [decode, decodeCycle, commandOf_code]

/-- Table words of 32 and of 8 bits; the byte 0x00 is PowerSetting's (R215), 0xE5 ForceTemperature's (R235). -/
theorem test_decode_table :
    decodeTableWord 32 0x109 = some (.setBackground .white) ∧ decodeTableWord 32 0 = some .reserved0 ∧
    decodeTableWord 32 0xFFFFFF2D = some (.setLut .quick) := by decide

theorem test_decode_table_bytes :
    decodeTableWord 8 0x00 = some (.powerSetting (.bytes [])) ∧
    decodeTableWord 8 0xE5 = some (.forceTemperature (.bytes [])) := by decide

/-! ### Small states -/

/-- STATUS 0x600: initialised, MODE Full, BG White. -/
def ready : State := { State.reset with lifecycle := .ready }

/-- STATUS 0x700: MODE Quick. -/
def quick : State := { ready with mode := .quick }

/-- STATUS 0xA02: after a transport error with the value 7. -/
def failed : State := { State.reset with lifecycle := .indeterminate, err := true, errCode := 7#32 }

/-- STATUS 0x614: halted by IllegalOp. -/
def halted : State := { ready with fault := true, faultCode := 1#4 }

/-- `s` with the window operands, BUF_LEN and BUF_BASE = 0x100. -/
def withWindow (x y w h len : Word) (s : State) : State := { s with args := ⟨0x100#32, len, x, y, w, h⟩ }

/-- A state in which the sequencer of `op` is at step `k`. -/
def running (op : Instr) (k : Nat) : State := { ready with inflight := true, seqOp := some op, seqStep := k }

/-- STATUS after an outcome. -/
def statusOf : Host.Outcome State Fault Refusal → Option Word
  | .next t => some (statusWord t)
  | .fault _ => none
  | .refused _ => none

/-- A field after an accepted operation has taken its first step in a quiet environment. -/
def firstStep {α : Type} (f : State → α) (i : Instr) (s : State) : Option α :=
  match exec i s with
  | .next t =>
    match sequencerMove quietDraw t with
    | .next u => some (f u)
    | .fault _ => none
    | .refused _ => none
  | .fault _ => none
  | .refused _ => none

/-- The transcript after draws. -/
def traceAfter (ds : List Draw) (o : Host.Outcome State Fault Refusal) : Option (List Event) :=
  match o with
  | .next t =>
    match runDraws ds t with
    | .next u => some u.trace
    | .fault _ => none
    | .refused _ => none
  | .fault _ => none
  | .refused _ => none

/-- `n` Ok answers. -/
def oks (n : Nat) : List Draw := List.replicate n quietDraw

theorem oks_ok (n : Nat) : ∀ d ∈ oks n, d.transport = .ok := by
  intro d hd
  rw [(List.mem_replicate.1 hd).2]
  rfl

/-! ### One step of the host operations -/

/-- STATUS at reset and of the small states (95_test_vectors.md section 1). -/
theorem test_status : statusWord State.reset = 0x200#32 ∧ statusWord ready = 0x600#32 ∧ statusWord quick = 0x700#32 ∧
    statusWord failed = 0xA02#32 := by decide

/-- V-FT-1, V-FT-2. -/
theorem test_reserved0 : statusOf (exec .reserved0 ready) = some 0x614#32 := by decide

theorem test_reservedF : statusOf (exec .reservedF ready) = some 0x614#32 := by decide

/-- R146: the first event of INIT is RST(0), with INFLIGHT 1. -/
theorem test_init : firstStep (fun s => (s.trace, s.rstN, s.inflight)) .init State.reset = some ([.rst false], false, true) :=
  by decide

/-- V-FT-4: a halted block ignores INIT. -/
theorem test_init_halted : statusOf (exec .init halted) = some 0x614#32 := by decide

/-- R156: as INIT; accepted after an error, which clears ERR. -/
theorem test_wakeUp : firstStep (fun s => (s.trace, s.err, s.errCode)) .wakeUp failed = some ([.rst false], false, 7#32) :=
  by decide

/-- V-AC-1. -/
theorem test_sleep : firstStep (fun s => (statusWord s, s.trace)) .sleep State.reset = some (0x200#32, []) := by decide

/-- V-UF-3: from MODE Quick with BUF_LEN = 2755, fault 4 and MODE still Quick. -/
theorem test_updateFrame_length :
    firstStep (fun s => (statusWord s, s.trace)) .updateFrame (withWindow 0 0 0 0 2755 quick) = some (0x744#32, []) := by
  decide

/-- R179: MODE is Full before the first event. -/
theorem test_updateFrame_mode :
    firstStep (fun s => (s.mode, s.trace, s.seqStep)) .updateFrame (withWindow 0 0 0 0 2756 quick) =
      some (.full, [], 1) := by decide

/-- V-PF-4, V-PF-5, V-PF-6, V-PF-7, V-PF-8, V-PF-9, V-PF-10. -/
theorem test_updatePartialFrame_checks :
    firstStep statusWord .updatePartialFrame (withWindow 16 246 8 10 10 ready) = some 0x694#32 ∧
    firstStep statusWord .updatePartialFrame (withWindow 4 0 16 8 16 ready) = some 0x664#32 ∧
    firstStep statusWord .updatePartialFrame (withWindow 0 0 12 8 12 ready) = some 0x674#32 ∧
    firstStep statusWord .updatePartialFrame (withWindow 0 0 16 8 15 ready) = some 0x654#32 ∧
    firstStep statusWord .updatePartialFrame (withWindow 8 16 16 8 16 quick) = some 0x784#32 ∧
    firstStep statusWord .updatePartialFrame (withWindow 4 0 12 8 11 ready) = some 0x654#32 ∧
    firstStep statusWord .updatePartialFrame (withWindow 4 0 12 8 12 ready) = some 0x664#32 := by decide

/-- V-PF-1, V-PF-2, V-PF-3, V-PF-11, V-PF-13, V-PF-18, and the faults of V-PF-12 and V-PF-14 to V-PF-17. -/
theorem test_window :
    windowBytes 8 16 16 8 = some [0x08, 0x17, 0x00, 0x10, 0x00, 0x17] ∧
    windowBytes 0 200 104 12 = some [0x00, 0x67, 0x00, 0xC8, 0x00, 0xD3] ∧
    windowBytes 16 250 8 10 = some [0x10, 0x17, 0x00, 0xFA, 0x01, 0x03] ∧
    windowBytes 8 0 0 8 = some [0x08, 0x07, 0x00, 0x00, 0x00, 0x07] ∧
    windowBytes 0 8 8 0 = some [0x00, 0x07, 0x00, 0x08, 0x00, 0x07] ∧
    windowBytes 96 204 16 8 = some [0x60, 0x6F, 0x00, 0xCC, 0x00, 0xD3] ∧
    windowBytes 0 0 0 8 = none ∧ windowBytes 0 0 8 0 = none ∧ windowBytes 256 0 8 8 = none ∧
    windowBytes 248 0 16 1 = none ∧ windowBytes 0 65536 8 8 = none := by decide

/-- V-FT-5: after a transport error DISPLAY_FRAME raises NotReady and ERR stays. -/
theorem test_displayFrame_notReady : statusOf (exec .displayFrame failed) = some 0xA36#32 := by decide

/-- R189: in MODE Quick the first cycle is the Quick load's override. -/
theorem test_displayFrame : seqFetch { quick with inflight := true, seqOp := some .displayFrame } =
    some (.cycle (.vcmDcSetting (.bytes [0x00]))) := by decide

/-- V-UD-3. -/
theorem test_updateAndDisplayFrame : firstStep statusWord .updateAndDisplayFrame ready = some 0x644#32 := by decide

/-- V-CF-3, and V-CF-4: BUF_LEN is ignored. -/
theorem test_clearFrame : statusOf (exec .clearFrame State.reset) = some 0x234#32 ∧
    firstStep (fun s => (s.trace, s.csN)) .clearFrame (withWindow 0 0 0 0 7 ready) = some ([.cs false], false) := by decide

/-- V-AC-7. -/
theorem test_setBackground : firstStep (fun s => (statusWord s, s.trace)) (.setBackground .black) State.reset =
    some (0x000#32, []) := by decide

/-- V-AC-4, and V-AC-5's second line. -/
theorem test_getBackground : firstStep State.result .getBackground State.reset = some 1#32 ∧
    firstStep State.result .getBackground { ready with bg := .black } = some 0#32 := by decide

/-- V-AC-2, V-FT-7. -/
theorem test_getWidth : firstStep (fun s => (s.result, s.trace)) .getWidth State.reset = some (0x68#32, []) ∧
    firstStep (fun s => (statusWord s, s.errCode)) .getWidth failed = some (0xA00#32, 7#32) := by decide

/-- V-AC-3. -/
theorem test_getHeight : firstStep (fun s => (s.result, s.trace)) .getHeight State.reset = some (0xD4#32, []) := by decide

/-- V-LUT-4, V-LUT-5. -/
theorem test_setLut : statusOf (exec (.setLut .reserved) ready) = some 0x614#32 ∧
    statusOf (exec (.setLut .quick) State.reset) = some 0x234#32 := by decide

/-- V-LUT-3: seven cycles, the override first, then the end. -/
theorem test_setLut_steps : (setLutSteps .quick).head? = some (.cycle (.vcmDcSetting (.bytes [0x00]))) ∧
    (setLutSteps .quick).length = 8 ∧ setLutSteps .noOverride = setLutSteps .full ∧ (setLutSteps .full).length = 7 := by
  decide

/-- V-BZ-1, and V-BZ-5's first sample. -/
theorem test_waitUntilIdle : firstStep (fun s => (s.trace, s.seqStep)) .waitUntilIdle State.reset =
    some ([.sample true], 2) := by decide

/-- V-FT-3: a CTRL write in flight. -/
theorem test_reentrant : statusOf (exec .getWidth { State.reset with inflight := true, seqOp := some .init, seqStep := 7 }) =
    some 0x224#32 := by decide

/-! ### Panel commands -/

/-- V-FR-1, V-FR-2: the whole Burst cycle, for each of the twenty-one commands. -/
theorem test_cycle_burst (c : PanelCommand) :
    traceAfter (oks 7) (exec (.ofCycle c (.bytes [0x68, 0x00, 0xD4])) (running .init 4)) =
      some [.cs false, .dc false, .cmd (Config.code c), .dc true, .data 0x68, .data 0x00, .data 0xD4, .cs true] ∧
    traceAfter (oks 4) (exec (.ofCycle c (.bytes [])) (running .init 4)) =
      some [.cs false, .dc false, .cmd (Config.code c), .dc true, .cs true] := by
  cases c <;> exact ⟨rfl, rfl⟩

/-- V-FR-6: PerWrite with the chunks [0x68] and [0x00, 0xD4]. -/
theorem test_cycle_perWrite :
    traceAfter (oks 5 ++ [{ quietDraw with split := true }] ++ oks 5)
      (exec (.resolutionSetting (.bytes [0x68, 0x00, 0xD4]))
        { running .init 11 with cfg := { Platform.thisHardware with framing := .perWrite } }) =
      some [.dc false, .cs false, .cmd (Config.code .resolutionSetting), .cs true, .dc true, .cs false, .data 0x68,
        .cs true, .cs false, .data 0x00, .data 0xD4, .cs true] := rfl

/-- V-FR-4: a transport error on PowerOn's command byte, which may or may not have gone out; where it has, CS(1) is an event
of its own and the next step's (10_state.md R32). -/
theorem test_cycle_error :
    traceAfter (oks 1 ++ [{ quietDraw with transport := .err 7 false }]) (exec (.powerOn (.bytes [])) (running .init 6)) =
      some [.cs false, .dc false, .cs true] ∧
    traceAfter (oks 1 ++ [{ quietDraw with transport := .err 7 true }]) (exec (.powerOn (.bytes [])) (running .init 6)) =
      some [.cs false, .dc false, .cmd (Config.code .powerOn)] ∧
    traceAfter (oks 1 ++ [{ quietDraw with transport := .err 7 true }] ++ oks 1)
      (exec (.powerOn (.bytes [])) (running .init 6)) =
      some [.cs false, .dc false, .cmd (Config.code .powerOn), .cs true] := ⟨rfl, rfl, rfl⟩

/-- The first command byte of INIT is 0x00 under every admissible CODE (V-FR-3). -/
theorem test_powerSetting_byte : Config.code .powerSetting = 0x00#8 := rfl

/-- A placed table word is run by the very next step: a CTRL word, and a command byte. -/
theorem test_placed : statusOf (step (State.reset.withFetchWord 32 0xB)) = some 0x201#32 ∧
    statusOf (step (State.reset.withFetchWord 8 0xE5)) = some 0x201#32 := by
  constructor
  · decide
  · simp [State.withFetchWord, placeTableWord, test_decode_table_bytes.2, Instr.cycle?]; rfl

/-! ### Host port and memory -/

/-- R49, R70: CTRL reads 0, a reserved offset reads 0 and ignores a write. -/
theorem test_port : readPort 0x00 failed = 0#32 ∧ readPort 0x0C failed = 7#32 ∧ readPort 0x28 failed = 0#32 ∧
    readPort 0x3C failed = 0#32 ∧ writePort 0x3C 5#32 failed = .next failed ∧ writePort 0x04 5#32 failed = .next failed :=
  ⟨rfl, rfl, rfl, rfl, rfl, rfl⟩

/-- R68: a half-word access is refused by name. -/
theorem test_port_refused : hostMove { State.reset with prog := [.rd ⟨2, 0x04⟩] } = .refused (.hostAccess 2 0x04) :=
  rfl

/-- R61, R62: a placed byte, its complement, and the top of the address space. -/
theorem test_memory : memRead { State.reset with mem := [(0x100, 0x0F)] } quietDraw 0x100 = some 0x0F ∧
    payloadByte { State.reset with mem := [(0x100, 0x0F)] } quietDraw (.bufCompl 0x100 1) 0 = some 0xF0 ∧
    memRead State.reset quietDraw 0xFFFFFFFF = some 0x00 ∧ memRead State.reset quietDraw 0x100000000 = none := by decide

/-- R63: the second read of a byte the host has not placed gives what the first gave, whatever is drawn; in the buffer of a
live operation a byte the host then stores is a draw. -/
theorem test_memory_twice :
    memRead (noteRead { quietDraw with mem := 0xAB } 0x100 State.reset) quietDraw 0x100 = some 0xAB ∧
    memRead (hostStore 0x100#32 0x11
      (noteRead { quietDraw with mem := 0xAB } 0x100 (startOp .updateFrame (withWindow 0 0 0 0 16 ready))))
      { quietDraw with mem := 0x22 } 0x100 = some 0x22 := by decide

/-! ### Witnesses: states -/

/-- The invariant of a state between operations. -/
theorem inv_idle {s : State} (hm : Memory.wf s.mem = true) (hd : s.drawn = []) (hf : s.fault = true ↔ s.faultCode ≠ 0#4)
    (hl : s.faultCode.toNat ≤ 9)
    (hi : s.inflight = false ∧ s.seqOp = none ∧ s.seqStep = 0 ∧ s.cyc = none ∧ s.timer = none ∧ s.tainted = [])
    (hp : s.csN = true ∧ s.dc = true ∧ s.rstN = true) (he : s.err = true → s.lifecycle = .indeterminate) : Inv s where
  memWf := hm
  drawnInv := ⟨by rw [hd]; rfl, fun _ _ _ => by rw [hd]; rfl⟩
  faultCode := hf
  faultCodeLe := hl
  halted := fun _ => hi.1
  inflight := by rw [hi.1, hi.2.1]; rfl
  idle := fun _ => hi.2.2
  pins := fun _ => ⟨hp.1, fun _ => hp.2.1⟩
  err := he
  seq := fun op ho => by simp [hi.2.1] at ho
  cycle := fun c hc => by simp [hi.2.2.2.1] at hc
  rst := fun hr => by simp [hp.2.2] at hr

theorem inv_reset : Inv State.reset := inv_idle (by decide) rfl (by decide) (by decide) (by decide) (by decide) (by decide)
theorem inv_ready : Inv ready := inv_idle (by decide) rfl (by decide) (by decide) (by decide) (by decide) (by decide)
theorem inv_quick : Inv quick := inv_idle (by decide) rfl (by decide) (by decide) (by decide) (by decide) (by decide)
theorem inv_halted : Inv halted := inv_idle (by decide) rfl (by decide) (by decide) (by decide) (by decide) (by decide)

theorem inv_window (x y w h len : Word) : Inv (withWindow x y w h len ready) :=
  inv_idle rfl rfl (by simp [withWindow, ready, State.reset]) (by simp [withWindow, ready, State.reset])
    ⟨rfl, rfl, rfl, rfl, rfl, rfl⟩ ⟨rfl, rfl, rfl⟩ (fun h => by simp [withWindow, ready, State.reset] at h)

/-- DISPLAY_FRAME accepted, its first cycle opened, and the states of the cycle's next steps: the command byte is about
to go out in `open1`, the one data byte in `open3`. -/
def open0 : State :=
  { startOp .displayFrame ready with
    csN := false, trace := [.cs false]
    cyc := some ⟨.burst, .bytes [Config.vcomDataInterval], .dcCmd .vcomAndDataIntervalSetting, 0⟩ }

def open1 : State :=
  cycleStep ⟨.burst, .bytes [Config.vcomDataInterval], .dcCmd .vcomAndDataIntervalSetting, 0⟩ quietDraw open0

def open2 : State :=
  cycleStep ⟨.burst, .bytes [Config.vcomDataInterval], .cmdByte .vcomAndDataIntervalSetting, 0⟩ quietDraw open1

def open3 : State := cycleStep ⟨.burst, .bytes [Config.vcomDataInterval], .dcData, 0⟩ quietDraw open2

theorem inv_open0 : Inv open0 := by
  have h : Inv (startOp .displayFrame ready) := by
    have := inv_ready.accept (i := .displayFrame) rfl
    rwa [show accept .displayFrame ready = startOp .displayFrame ready from rfl] at this
  exact h.beginCycle (op := .displayFrame) (i := .vcomAndDataIntervalSetting (.bytes [Config.vcomDataInterval])) rfl rfl
    rfl rfl rfl rfl rfl rfl

theorem inv_open1 : Inv open1 := inv_open0.cycleStep rfl rfl quietDraw
theorem inv_open2 : Inv open2 := inv_open1.cycleStep rfl rfl quietDraw
theorem inv_open3 : Inv open3 := inv_open2.cycleStep rfl rfl quietDraw

/-- The host's buffer of `n` zero bytes at address 0. -/
def zeros (n : Nat) : Memory := (List.range' 0 n).map fun a => (a, 0#8)

theorem read_zeros (a n k : Nat) : Memory.read? ((List.range' a n).map fun a => (a, 0#8)) k =
    if a ≤ k ∧ k < a + n then some 0#8 else none := by
  induction n generalizing a with
  | zero => simp [Memory.read?]
  | succ n ih =>
    simp only [List.range'_succ, List.map_cons, Memory.read?, ih]
    split_ifs <;> first | rfl | omega

theorem wf_zeros (a n : Nat) (h : a + n ≤ 2 ^ 32) : Memory.wf ((List.range' a n).map fun a => (a, 0#8)) = true := by
  induction n generalizing a with
  | zero => rfl
  | succ n ih =>
    simp only [List.range'_succ, List.map_cons]
    refine Memory.wf_cons.2 ⟨by omega, ?_, ih _ (by omega)⟩
    simp only [List.mem_map, List.mem_range'_1]
    rintro c ⟨b, hb, rfl⟩
    omega

/-- A host that has placed 2756 zero bytes at 0 and named them in the argument registers. -/
def buffered : State := { ready with mem := zeros 2756, args := ⟨0#32, 2756#32, 8#32, 16#32, 16#32, 8#32⟩ }

theorem inv_buffered : Inv buffered :=
  inv_idle (wf_zeros 0 2756 (by decide)) rfl (by simp [buffered, ready, State.reset])
    (by simp [buffered, ready, State.reset]) ⟨rfl, rfl, rfl, rfl, rfl, rfl⟩ ⟨rfl, rfl, rfl⟩
    (fun h => by simp [buffered, ready, State.reset] at h)

theorem holds_zeros {s : State} {n : Nat} (hm : s.mem = zeros n) (hc : s.cfg = Platform.thisHardware) (ht : s.tainted = [])
    (hn : n ≤ 2 ^ 32) {k : Nat} (hk : k ≤ n) : HoldsBuffer s 0 (List.replicate k 0#8) := by
  refine ⟨ht, fun i hi => ?_⟩
  simp only [List.length_replicate] at hi
  refine ⟨?_, ?_⟩
  · simp [admits, hc, Platform.thisHardware, Region.holds]
    omega
  · rw [List.getElem?_replicate, if_pos hi]
    refine hostByte_placed ?_
    rw [hm, zeros, read_zeros, if_pos (by omega)]

/-! ### Witnesses: the hypotheses of each obligation, at boundary values -/

theorem test_hyp_EncodeDecodeAgree : (Instr.setLut .reserved).cycle? = none ∧
    (Payload.fill 3#8 2).static? = some [3#8, 3#8] ∧ (Payload.lut .quick .bb).static? = some (Config.lut .quick .bb) :=
  ⟨rfl, rfl, rfl⟩

theorem test_hyp_ReservedBitsIgnored :
    (0xFFFFFF09#32 : Word).extractLsb' 0 4 = (0x00000109#32 : Word).extractLsb' 0 4 ∧
    ((0xFFFFFF09#32 : Word).extractLsb' 0 4 = 0xD#4 →
      (0xFFFFFF09#32 : Word).extractLsb' 4 2 = (0x00000109#32 : Word).extractLsb' 4 2) ∧
    ((0xFFFFFF09#32 : Word).extractLsb' 0 4 = 0x9#4 →
      (0xFFFFFF09#32 : Word).getLsbD 8 = (0x00000109#32 : Word).getLsbD 8) := by decide

/-- Two names of one command's byte. -/
theorem test_hyp_CodeConstraints : Config.code .lutVcom = Config.code .lutVcom := rfl

/-- The widest window that fits, and V-PF-4 with its other checks passed. -/
theorem test_hyp_WindowDescriptor : WindowFits 248 65528 8 7 ∧ ¬ WindowFits 16 246 8 10 ∧
    (let s : State := { ready with latched := ⟨0#32, 10#32, 16#32, 246#32, 8#32, 10#32⟩ }
     s.latched.bufLen.toNat = s.latched.w.toNat * s.latched.h.toNat / 8 ∧ s.latched.x.toNat % 8 = 0 ∧
       s.latched.w.toNat % 8 = 0 ∧ s.mode = .full) := by decide

/-- Reads and writes at the first and last register, the first and last reserved offset, and past the block. -/
theorem test_hyp_HostPortMap (off : Nat) (h : off ∈ [0x00, 0x24, 0x28, 0x3C, 0x40]) : off % 4 = 0 ∧
    ({ ready with prog := [.rd ⟨4, off⟩] } : State).prog = .rd ⟨4, off⟩ :: [] ∧
    ({ ready with prog := [.wr ⟨4, off⟩ 7#32] } : State).prog = .wr ⟨4, off⟩ 7#32 :: [] := by
  refine ⟨?_, rfl, rfl⟩
  simp only [List.mem_cons, List.not_mem_nil, or_false] at h
  rcases h with rfl | rfl | rfl | rfl | rfl <;> rfl

/-- Clause by clause: a write to H, the move that makes it, and an acceptance that latches. -/
theorem test_hyp_ArgumentRegisters :
    (HostReg.h ∈ argRegs ∧ ({ ready with prog := [.wr HostReg.h.access 7#32] } : State).prog =
      .wr HostReg.h.access 7#32 :: []) ∧
    (∃ t, applyMove .host { ready with prog := [.wr HostReg.h.access 7#32] } = .next t ∧ Move.host ≠ .blkRst ∧
      t.args ≠ ready.args) ∧
    (Accepting (withWindow 8 16 16 8 16 ready) ∧ (withWindow 8 16 16 8 16 ready).lifecycle = .ready ∧
      ¬ ((0x4#32 : Word).extractLsb' 0 4 ∈ [0x0#4, 0xF#4] ∨
        ((0x4#32 : Word).extractLsb' 0 4 = 0xD#4 ∧ (0x4#32 : Word).extractLsb' 4 2 = 3#2)) ∧
      (0x4#32 : Word).extractLsb' 0 4 ∈ [0x3#4, 0x4#4, 0x5#4, 0x6#4, 0x8#4, 0xD#4]) ∧
    (∃ t, applyMove .host { withWindow 8 16 16 8 16 ready with prog := [.wr HostReg.ctrl.access 0x4#32] } = .next t ∧
      t.latched ≠ (withWindow 8 16 16 8 16 ready).latched) :=
  ⟨⟨by decide, rfl⟩, ⟨_, rfl, by decide, by decide⟩, by decide, ⟨_, rfl, by decide⟩⟩

theorem test_hyp_StatusWordLayout :
    ({ failed with prog := [.wr HostReg.status.access 7#32] } : State).prog = .wr HostReg.status.access 7#32 :: [] ∧
    ({ failed with prog := [.rd HostReg.status.access] } : State).prog = .rd HostReg.status.access :: [] := ⟨rfl, rfl⟩

/-- A refusal is reached: by width, and by alignment. -/
theorem test_hyp_RefusedHostAccess :
    applyMove .host { ready with prog := [.wr ⟨1, 0⟩ 0#32] } = .refused (.hostAccess 1 0) ∧
    applyMove .host { ready with prog := [.rd ⟨4, 2⟩] } = .refused (.hostAccess 4 2) := ⟨rfl, rfl⟩

theorem test_hyp_PseudoInstruction :
    (isHostOp .updatePartialFrame = true ∧
      ([0x100#32, 16#32, 8#32, 16#32, 16#32, 8#32] : List Word).length = Instr.updatePartialFrame.operandRegs.length) ∧
    Accepting ready ∧ ready.lifecycle = .ready ∧
    (∃ lines, Instr.updatePartialFrame.expand [0x100#32, 16#32, 8#32, 16#32, 16#32, 8#32] = some lines ∧
      ({ ready with prog := lines ++ [] } : State).prog = lines ++ []) ∧
    ({ ready with prog := [.poll] } : State).prog = .poll :: [] :=
  ⟨by decide, by decide, by decide, ⟨_, rfl, rfl⟩, rfl⟩

/-- The four kinds of step. -/
theorem test_hyp_StepRunsDecoded :
    (let s : State := { ready with script := [.host], prog := [.wr HostReg.ctrl.access 0x5#32] }
     s.script = .host :: [] ∧ s.prog = .wr HostReg.ctrl.access 0x5#32 :: []) ∧
    (let s : State := { running .waitUntilIdle 0 with
      script := [.sequencer quietDraw], cfg := { Platform.thisHardware with busySource := .statusQuery } }
     s.script = .sequencer quietDraw :: [] ∧ s.inflight = true ∧ s.timer = none ∧ s.cyc = none ∧
       seqFetch s = some (.cycle (.getStatus (.bytes [])))) ∧
    (let s : State := { open1 with script := [.sequencer quietDraw] }
     s.script = .sequencer quietDraw :: [] ∧ s.inflight = true ∧ s.timer = none ∧ s.cyc.isSome = true) ∧
    State.reset.script = [] := by
  refine ⟨⟨rfl, rfl⟩, ⟨rfl, rfl, rfl, rfl, rfl⟩, ⟨rfl, rfl, rfl, rfl⟩, rfl⟩

theorem test_hyp_PlacedWordRuns :
    (decodeTableWord 32 0x2D = some (.setLut .quick) ∧ (Instr.setLut .quick).cycle? = none) ∧
    (decodeTableWord 8 0xE5 = some (.forceTemperature (.bytes [])) ∧
      (Instr.forceTemperature (.bytes [])).cycle?.isSome = true) :=
  ⟨⟨by decide, rfl⟩, ⟨test_decode_table_bytes.2, rfl⟩⟩

/-- Each branch of acceptance: halted, in flight, reserved, LUTSEL 3, not ready, accepted. -/
theorem test_hyp_Acceptance : halted.fault = true ∧
    ((running .init 7).fault = false ∧ (running .init 7).inflight = true) ∧ Accepting ready ∧ Accepting State.reset ∧
    (0xF#32 : Word).extractLsb' 0 4 = 0xF#4 ∧
    ((0x3D#32 : Word).extractLsb' 0 4 = 0xD#4 ∧ (0x3D#32 : Word).extractLsb' 4 2 = 3#2) ∧
    ((0x2D#32 : Word).extractLsb' 0 4 ∈ [0x3#4, 0x4#4, 0x5#4, 0x6#4, 0x8#4, 0xD#4] ∧
      (0x2D#32 : Word).extractLsb' 0 4 ≠ 0x0#4 ∧ (0x2D#32 : Word).extractLsb' 0 4 ≠ 0xF#4 ∧
      ¬ ((0x2D#32 : Word).extractLsb' 0 4 = 0xD#4 ∧ (0x2D#32 : Word).extractLsb' 4 2 = 3#2) ∧
      State.reset.lifecycle ≠ .ready ∧ ready.lifecycle = .ready) := by decide

/-- A fault at acceptance, a fault of an operation's own check, and Reentrant. -/
theorem test_hyp_FaultEntry :
    (∃ t, applyMove .host { ready with prog := [.wr HostReg.ctrl.access 0xF#32] } = .next t ∧ ready.fault = false ∧
      t.fault = true ∧ t.faultCode = 1#4) ∧
    (∃ t, applyMove (.sequencer quietDraw) (running .updateFrame 0) = .next t ∧ (running .updateFrame 0).fault = false ∧
      t.fault = true ∧ t.faultCode = 4#4) ∧
    (∃ t, applyMove .host { running .init 7 with prog := [.wr HostReg.ctrl.access 0xB#32] } = .next t ∧
      (running .init 7).fault = false ∧ t.fault = true ∧ t.faultCode = 2#4) :=
  ⟨⟨_, rfl, rfl, rfl, rfl⟩, ⟨_, rfl, rfl, rfl, rfl⟩, ⟨_, rfl, rfl, rfl, rfl⟩⟩

theorem test_hyp_IllegalOpRaised : Inv ready ∧ Accepting ready := ⟨inv_ready, by decide⟩

theorem test_hyp_NotReadyRaised : Inv State.reset ∧ Accepting State.reset ∧ State.reset.lifecycle ≠ .ready :=
  ⟨inv_reset, by decide, by decide⟩

theorem test_hyp_ReentrantAbandons : open1.fault = false ∧ open1.inflight = true := by decide

/-- A halted block, a move of it, and an admitted read. -/
theorem test_hyp_HaltedBlock : Inv halted ∧ halted.fault = true ∧
    (∃ t, Move.timer ≠ .blkRst ∧ applyMove .timer halted = .next t) ∧
    ((⟨4, 0x24⟩ : Access).Admitted ∧ ({ halted with prog := [.rd ⟨4, 0x24⟩] } : State).prog = .rd ⟨4, 0x24⟩ :: []) ∧
    (∃ t, applyMove .blkRst halted = .next t) :=
  ⟨inv_halted, rfl, ⟨_, by decide, rfl⟩, ⟨by decide, rfl⟩, ⟨_, rfl⟩⟩

/-- BUF_LEN one byte short. -/
theorem test_hyp_BufferLengthRaised (i : Instr) (h : i = .updateFrame ∨ i = .updateAndDisplayFrame) :
    i ∈ [.updateFrame, .updateAndDisplayFrame] ∧ Inv (withWindow 0 0 0 0 2755 ready) ∧
    Accepting (withWindow 0 0 0 0 2755 ready) ∧ (withWindow 0 0 0 0 2755 ready).lifecycle = .ready ∧
    (withWindow 0 0 0 0 2755 ready).args.bufLen ≠ 2756#32 :=
  ⟨by rcases h with rfl | rfl <;> decide, inv_window .., by decide, rfl, by decide⟩

/-- The state of V-PF-4; those of the other branches differ in their operands alone. -/
theorem test_hyp_PartialChecks (x y w h len : Word) : Inv (withWindow x y w h len ready) ∧
    Accepting (withWindow x y w h len ready) ∧ (withWindow x y w h len ready).lifecycle = .ready :=
  ⟨inv_window .., ⟨rfl, rfl⟩, rfl⟩

theorem test_hyp_HostOpFrame : Instr.init.cycle? = none ∧ (∃ t, exec .init ready = .next t) ∧
    (ready.fault = true ∨ ready.inflight = false) ∧ (∃ t, exec .init open1 = .next t) :=
  ⟨rfl, ⟨_, rfl⟩, .inr rfl, ⟨_, rfl⟩⟩

theorem test_hyp_PanelCommandFrame : ready.cfg.framing = .burst ∧
    ({ ready with cfg := { Platform.thisHardware with framing := .perWrite } } : State).cfg.framing = .perWrite := ⟨rfl, rfl⟩

theorem test_hyp_SequencerFrame : (∃ t, sequencerMove quietDraw open1 = .next t) ∧
    (∃ t, sequencerMove quietDraw { running .init 2 with timer := some 10000 } = .next t ∧
      ({ running .init 2 with timer := some 10000 } : State).timer ≠ none) ∧
    (let s : State := { open1 with drawn := [(0x100, 0x0F)] }
     hostByte? s 0x100 = some 0x0F ∧ ∃ t, sequencerMove quietDraw s = .next t) :=
  ⟨⟨_, rfl⟩, ⟨_, rfl, by decide⟩, rfl, ⟨_, rfl⟩⟩

theorem test_hyp_BurstCycle : (running .init 4).cfg.framing = .burst ∧ (running .init 4).inflight = true ∧
    (running .init 4).timer = none ∧ (running .init 4).cyc = none ∧ Yields (running .init 4) (.bytes [1, 2]) [1, 2] ∧
    (oks 6).length = ([1, 2] : List Byte).length + 4 ∧ (∀ d ∈ oks 6, d.transport = .ok) ∧
    Yields (running .init 4) (.bytes []) [] :=
  ⟨rfl, rfl, rfl, rfl, yields_bytes _ _, rfl, oks_ok 6, yields_bytes _ _⟩

/-- A PerWrite cycle in two chunks, and a standalone write in none. -/
theorem test_hyp_PerWriteCycle :
    (let s : State := { running .init 4 with cfg := { Platform.thisHardware with framing := .perWrite } }
     s.cfg.framing = .perWrite ∧ s.csN = true ∧ s.inflight = true ∧ s.timer = none ∧ s.cyc = none ∧
       Yields s (.bytes [1, 2, 3]) [1, 2, 3] ∧ Yields s (.bytes []) []) ∧
    ([[1], [2, 3]] : List (List Byte)).flatten = [1, 2, 3] ∧ (∀ w ∈ ([[1], [2, 3]] : List (List Byte)), w ≠ []) ∧
    ([] : List (List Byte)).flatten = [] ∧ ∀ w ∈ ([] : List (List Byte)), w ≠ [] :=
  ⟨⟨rfl, rfl, rfl, rfl, rfl, yields_bytes _ _, yields_bytes _ _⟩, rfl, by decide, rfl, by decide⟩

theorem test_hyp_FramingByteLevel : Yields (running .init 6) (.bytes []) [] ∧
    ∃ t, exec (.ofCycle .powerOn (.bytes [])) (running .init 6) = .next t ∧ (∀ d ∈ oks 4, d.transport = .ok) ∧
      (runCycle (oks 4) t).cyc = none :=
  ⟨yields_bytes _ _, ⟨_, rfl, oks_ok 4, rfl⟩⟩

/-- An error at the command byte, at a data byte, and at the first and the last index of a cycle. -/
theorem test_hyp_TransportErrorInCycle :
    (let d : Draw := { quietDraw with transport := .err 7 true }
     d.transport = .err 7 true ∧ 7 < 2 ^ 32 ∧
     (open1.inflight = true ∧ open1.timer = none ∧ open1.cyc = some
       ⟨.burst, .bytes [Config.vcomDataInterval], .cmdByte .vcomAndDataIntervalSetting, 0⟩) ∧
     (open3.inflight = true ∧ open3.timer = none ∧ open3.cyc = some
       ⟨.burst, .bytes [Config.vcomDataInterval], .data, 0⟩ ∧
       payloadByte open3 d (.bytes [Config.vcomDataInterval]) 0 = some Config.vcomDataInterval) ∧
     ((running .init 4).cfg.framing = .burst ∧ (running .init 4).inflight = true ∧ (running .init 4).timer = none ∧
       (running .init 4).cyc = none ∧ Yields (running .init 4) (.bytes [1, 2]) [1, 2]) ∧
     (0 ≤ ([1, 2] : List Byte).length ∧ (oks 1).length = if 0 = 0 then 1 else 0 + 2) ∧
     (2 ≤ ([1, 2] : List Byte).length ∧ (oks 4).length = if 2 = 0 then 1 else 2 + 2) ∧
     (∀ d' ∈ oks 4, d'.transport = .ok) ∧ ({ quietDraw with transport := .err 7 false } : Draw).transport = .err 7 false) :=
  ⟨rfl, by decide, ⟨rfl, rfl, rfl⟩, ⟨rfl, rfl, rfl, rfl⟩, ⟨rfl, rfl, rfl, rfl, yields_bytes _ _⟩, ⟨by decide, rfl⟩,
    ⟨by decide, rfl⟩, oks_ok 4, rfl⟩

/-- The first read past the top of the address space. -/
theorem test_hyp_StuckRead :
    (let c : Cycle := ⟨.burst, .buf 0xFFFFFFFF 2, .data, 1⟩
     let s : State := { running .updateFrame 2 with cyc := some c, csN := false }
     s.cyc = some c ∧ s.inflight = true ∧ s.timer = none ∧ c.phase = .data ∧ c.payload = .buf 0xFFFFFFFF 2 ∧
       c.sent < 2 ∧ admits s (0xFFFFFFFF + c.sent) = false ∧ admits s 0xFFFFFFFF = true) ∧ 2 ^ 32 ≤ 0x100000000 := by
  decide

/-- A placed byte that is read, a read of a byte the host has not placed, a read no draw can change and the host's store
elsewhere, and a store into the last byte of a live buffer. -/
theorem test_hyp_BufferReads :
    (let s : State := { ready with mem := [(0x100, 0x0F)] }
     0 < 1 ∧ admits s (0x100 + 0) = true ∧ 0x100 + 0 ∉ s.tainted ∧ Memory.read? s.mem (0x100 + 0) = some 0x0F) ∧
    (let c : Cycle := ⟨.burst, .bufCompl 0x100 16, .data, 15⟩
     let s : State := { running .updatePartialFrame 3 with cyc := some c, csN := false }
     let d : Draw := { quietDraw with mem := 0xAB }
     s.inflight = true ∧ s.timer = none ∧ s.cyc = some c ∧ c.phase = .data ∧ c.payload = .bufCompl 0x100 16 ∧
       c.sent < 16 ∧ 0x100 + c.sent ∉ s.tainted ∧ memRead s d (0x100 + c.sent) = some 0xAB ∧
       sequencerMove d s = .next (cycleStep c d s)) ∧
    (let s : State := { ready with drawn := [(0x100, 0x0F)] }
     (∀ d, memRead s d 0x100 = some 0x0F) ∧
       applyMove (.hostStore 0x101#32 0x0E) s = .next (hostStore 0x101#32 0x0E s) ∧
       ∀ k v, Move.hostStore 0x101#32 0x0E = .hostStore k v → k.toNat ≠ 0x100) ∧
    (let s : State := { running .updatePartialFrame 4 with latched := ⟨0x100#32, 16#32, 8#32, 16#32, 16#32, 8#32⟩ }
     s.inflight = true ∧ s.seqOp = some .updatePartialFrame ∧ s.latched.bufBase.toNat ≤ (0x10F#32 : Word).toNat ∧
       (0x10F#32 : Word).toNat < s.latched.bufBase.toNat + s.latched.bufLen.toNat ∧
       admits s (0x10F#32 : Word).toNat = true ∧ quietDraw.mem = 0#8) ∧ (5 : Nat) ≠ (0x10F#32 : Word).toNat := by
  refine ⟨by decide, ⟨rfl, rfl, rfl, rfl, rfl, by decide, by decide, by decide, rfl⟩, ⟨fun d => ?_, rfl, ?_⟩, by decide⟩
  · exact memRead_held d (by decide) (by decide) (by decide)
  · rintro k v ⟨⟩
    decide

/-- The first wait of INIT: also WaitNeverEnds'. -/
theorem test_hyp_WaitIdlePin : (running .init 7).inflight = true ∧ (running .init 7).timer = none ∧
    (running .init 7).cyc = none ∧ (running .init 7).seqOp = some .init ∧
    (stepList .init (running .init 7))[7]? = some .sample ∧ (stepList .init (running .init 7))[7 + 1]? = some (.poll 1) :=
  ⟨rfl, rfl, rfl, rfl, rfl, rfl⟩

/-- Both turns are met: the idle bit and the other one, of a byte of ones or of zeros. -/
theorem test_hyp_StatusQueryWait :
    (let s : State := { running .waitUntilIdle 0 with cfg := { Platform.thisHardware with busySource := .statusQuery } }
     s.inflight = true ∧ s.timer = none ∧ s.cyc = none ∧ s.cfg.framing = .burst ∧ s.seqOp = some .waitUntilIdle ∧
       (stepList .waitUntilIdle s)[0]? = some (.cycle (.getStatus (.bytes []))) ∧
       (stepList .waitUntilIdle s)[0 + 1]? = some .statusRead ∧ (stepList .waitUntilIdle s)[0 + 2]? = some (.poll 2)) ∧
    (∃ b : Byte, b.getLsbD Config.statusIdleBit.val = Config.statusIdleValue) ∧
    (∃ b : Byte, b.getLsbD Config.statusIdleBit.val ≠ Config.statusIdleValue) := by
  have h0 : ∀ k : Fin 8, (0x00#8 : Byte).getLsbD k.val = false := by decide
  have h1 : ∀ k : Fin 8, (0xFF#8 : Byte).getLsbD k.val = true := by decide
  refine ⟨⟨rfl, rfl, rfl, rfl, rfl, rfl, rfl, rfl⟩, ?_, ?_⟩ <;> cases h : Config.statusIdleValue
  · exact ⟨0x00#8, h0 _⟩
  · exact ⟨0xFF#8, h1 _⟩
  · exact ⟨0xFF#8, by rw [h1]; decide⟩
  · exact ⟨0x00#8, by rw [h0]; decide⟩

theorem test_hyp_WaitCallSites : isHostOp .displayFrame = true ∧
    (waitIdleSteps ready.cfg.busySource).head? = some .sample ∧ (stepList .displayFrame ready)[8]? = some .sample ∧
    isHostOp .init = true ∧ (stepList .init ready)[13]? = some .sample := ⟨rfl, rfl, rfl, rfl, rfl⟩

/-- INIT from reset. -/
theorem test_hyp_InitRuns : Inv State.reset ∧ Accepting State.reset ∧ ThisHardware State.reset :=
  ⟨inv_reset, by decide, ⟨rfl, rfl⟩⟩

/-- A buffer of 2756 bytes: also UpdateAndDisplayFrameRuns'. -/
theorem test_hyp_UpdateFrameRuns : Inv buffered ∧ Accepting buffered ∧ ThisHardware buffered ∧
    buffered.lifecycle = .ready ∧ buffered.args.bufLen = 2756#32 ∧ (List.replicate 2756 0#8).length = 2756 ∧
    HoldsBuffer buffered buffered.args.bufBase.toNat (List.replicate 2756 0#8) :=
  ⟨inv_buffered, ⟨rfl, rfl⟩, ⟨rfl, rfl⟩, rfl, rfl, List.length_replicate,
    holds_zeros (n := 2756) rfl rfl rfl (by decide) (Nat.le_refl _)⟩

/-- The window of V-PF-1. -/
theorem test_hyp_UpdatePartialFrameRuns :
    let s : State := { buffered with args := ⟨0#32, 16#32, 8#32, 16#32, 16#32, 8#32⟩ }
    Inv s ∧ Accepting s ∧ ThisHardware s ∧ s.lifecycle = .ready ∧ s.mode = .full ∧
    s.args.bufLen.toNat = s.args.w.toNat * s.args.h.toNat / 8 ∧ s.args.x.toNat % 8 = 0 ∧ s.args.w.toNat % 8 = 0 ∧
    WindowFits s.args.x.toNat s.args.y.toNat s.args.w.toNat s.args.h.toNat ∧
    windowPayload s.args = .bytes [0x08, 0x17, 0x00, 0x10, 0x00, 0x17, 0x28] ∧
    (List.replicate 16 0#8).length = s.args.bufLen.toNat ∧
    HoldsBuffer s s.args.bufBase.toNat (List.replicate 16 0#8) :=
  ⟨inv_buffered.ofHost rfl, ⟨rfl, rfl⟩, ⟨rfl, rfl⟩, rfl, rfl, by decide, by decide, by decide, by decide, by decide, rfl,
    holds_zeros (n := 2756) rfl rfl rfl (by decide) (by decide)⟩

/-- In both modes; also ClearFrameRuns' and SetLutRuns'. -/
theorem test_hyp_DisplayFrameRuns : (Inv ready ∧ Accepting ready ∧ ThisHardware ready ∧ ready.lifecycle = .ready) ∧
    (Inv quick ∧ Accepting quick ∧ ThisHardware quick ∧ quick.lifecycle = .ready) ∧
    (LutSel.quick, Family.quick) ∈ [(LutSel.noOverride, Family.full), (.full, .full), (.quick, .quick)] :=
  ⟨⟨inv_ready, by decide, ⟨rfl, rfl⟩, rfl⟩, ⟨inv_quick, by decide, ⟨rfl, rfl⟩, rfl⟩, by decide⟩

/-- Before INIT: also SleepRuns', BackgroundRuns' and GeometryRuns'. -/
theorem test_hyp_WaitUntilIdleRuns : Inv State.reset ∧ Accepting State.reset ∧ ThisHardware State.reset :=
  test_hyp_InitRuns

/-- A step from a state inside a cycle; InvNeverFaults asks for the invariant alone. -/
theorem test_hyp_StepKeepsInv : ∃ t, Inv { open1 with script := [.sequencer quietDraw] } ∧
    step { open1 with script := [.sequencer quietDraw] } = .next t := ⟨_, inv_open1.ofHost rfl, rfl⟩

/-- Each writer of MODE. -/
theorem test_hyp_ModeWriters :
    (∃ t, applyMove .blkRst quick = .next t ∧ t.mode ≠ quick.mode) ∧
    (∃ t, applyMove (.sequencer quietDraw) (startOp .updateFrame (withWindow 0 0 0 0 2756 quick)) = .next t ∧
      t.mode ≠ quick.mode) ∧
    (∃ t, applyMove (.sequencer quietDraw) (startOp .updatePartialFrame (withWindow 8 16 16 8 16 ready)) = .next t ∧
      t.mode ≠ ready.mode) :=
  ⟨⟨_, rfl, by decide⟩, ⟨_, rfl, by decide⟩, ⟨_, rfl, by decide⟩⟩

theorem test_hyp_AccessorWriters :
    (∃ t, applyMove (.sequencer quietDraw) (running (.setBackground .black) 0) = .next t ∧ Move.sequencer quietDraw ≠ .blkRst ∧
      t.bg ≠ ready.bg) ∧
    (∃ t, applyMove (.sequencer quietDraw) (running .getHeight 0) = .next t ∧ t.result ≠ ready.result) :=
  ⟨⟨_, rfl, by decide, by decide⟩, ⟨_, rfl, by decide⟩⟩

/-- INIT's completion, a transport error before and after the byte went out, an acceptance that clears ERR, and a cycle that
comes to stand failed. -/
theorem test_hyp_StatusWriters :
    (∃ t, applyMove (.sequencer quietDraw) { running .init 15 with lifecycle := .uninit } = .next t ∧
      t.lifecycle ≠ .uninit) ∧
    (∃ t, applyMove (.sequencer { quietDraw with transport := .err 7 false }) open1 = .next t ∧
      t.lifecycle ≠ open1.lifecycle ∧ open1.err = false ∧ t.err = true ∧ t.errCode ≠ open1.errCode) ∧
    (∃ t, applyMove (.sequencer { quietDraw with transport := .err 7 true }) open1 = .next t ∧
      t.cyc = some ⟨.burst, .bytes [Config.vcomDataInterval], .failed 7, 0⟩ ∧
      ∃ u, applyMove (.sequencer quietDraw) t = .next u ∧ u.lifecycle ≠ t.lifecycle ∧ t.err = false ∧ u.err = true ∧
        u.errCode ≠ t.errCode) ∧
    (∃ t, applyMove .host { failed with prog := [.wr HostReg.ctrl.access 0xB#32] } = .next t ∧ failed.err = true ∧
      t.err = false) :=
  ⟨⟨_, rfl, by decide⟩, ⟨_, rfl, by decide, rfl, rfl, by decide⟩,
    ⟨_, rfl, rfl, _, rfl, by decide, rfl, rfl, by decide⟩, ⟨_, rfl, rfl, rfl⟩⟩

theorem test_hyp_TraceAppendOnly : ∃ t, Move.sequencer quietDraw ≠ .blkRst ∧
    applyMove (.sequencer quietDraw) open1 = .next t := ⟨_, by decide, rfl⟩

theorem test_hyp_EmittedCommands : ∃ t, Inv open1 ∧ Move.sequencer quietDraw ≠ .blkRst ∧
    applyMove (.sequencer quietDraw) open1 = .next t ∧
    t.trace = open1.trace ++ [.cmd (Config.code .vcomAndDataIntervalSetting)] ∧
    Event.cmd (Config.code .vcomAndDataIntervalSetting) ∈ [Event.cmd (Config.code .vcomAndDataIntervalSetting)] ∧
    open1.cfg.busySource = .pin :=
  ⟨_, inv_open1, by decide, rfl, rfl, List.mem_cons_self, rfl⟩

/-- Each kind of event: a command byte, a data byte, a sample, the reset pin. -/
theorem test_hyp_BytesUnderPins :
    (∃ t, Inv open1 ∧ sequencerMove quietDraw open1 = .next t ∧
      t.trace = open1.trace ++ [.cmd (Config.code .vcomAndDataIntervalSetting)]) ∧
    (∃ t, Inv open3 ∧ sequencerMove quietDraw open3 = .next t ∧
      t.trace = open3.trace ++ [.data Config.vcomDataInterval]) ∧
    (∃ t, Inv (startOp .waitUntilIdle ready) ∧ sequencerMove quietDraw (startOp .waitUntilIdle ready) = .next t ∧
      t.trace = (startOp .waitUntilIdle ready).trace ++ [.sample true]) ∧
    (∃ t, Inv (startOp .init ready) ∧ sequencerMove quietDraw (startOp .init ready) = .next t ∧
      t.trace = (startOp .init ready).trace ++ [.rst false]) := by
  have h : ∀ i, i = .waitUntilIdle ∨ i = .init → Inv (startOp i ready) := by
    rintro i (rfl | rfl)
    · exact inv_ready.accept (i := .waitUntilIdle) rfl
    · exact inv_ready.accept (i := .init) rfl
  exact ⟨⟨_, inv_open1, rfl, rfl⟩, ⟨_, inv_open3, rfl, rfl⟩, ⟨_, h _ (.inl rfl), rfl, rfl⟩, ⟨_, h _ (.inr rfl), rfl, rfl⟩⟩

theorem test_hyp_RefreshSites : isHostOp .clearFrame = true ∧
    (stepList .clearFrame quick)[8]? = some (.cycle (.displayRefresh (.bytes []))) ∧ isHostOp .init = true ∧
    (stepList .init ready)[6]? = some (.cycle (.powerOn (.bytes []))) := ⟨rfl, rfl, rfl, rfl⟩

theorem test_hyp_PartialModeStays :
    (∃ t, applyMove .blkRst { quick with panel := { PanelRecord.empty with partialMode := true } } = .next t ∧
      ({ quick with panel := { PanelRecord.empty with partialMode := true } } : State).panel.partialMode = true) ∧
    isHostOp (.setLut .quick) = true ∧
    (stepList (.setLut .quick) ready)[0]? = some (.cycle (.vcmDcSetting (.bytes [0x00#8]))) ∧
    (stepList .init ready)[12]? = some (.cycle (.vcmDcSetting (.bytes Config.vdcPayload.toList))) :=
  ⟨⟨_, rfl, rfl⟩, rfl, rfl, rfl⟩

theorem test_hyp_PanelRecordFollowsBus : ∃ t, Move.sequencer quietDraw ≠ .blkRst ∧
    applyMove (.sequencer quietDraw) open3 = .next t ∧ t.trace = open3.trace ++ [.data Config.vcomDataInterval] :=
  ⟨_, by decide, rfl, rfl⟩

/-- Also PanelNoninterference's. -/
theorem test_hyp_LatchNoninterference : ∃ t, sequencerMove quietDraw open1 = .next t := ⟨_, rfl⟩

end Sys2Proof.Tests
end

/-! The proofs for the statements of 00_scope.md: a step is the decoded instruction's (R11), the transcript is append-only with
at most one event a move (R24, R32, R72), and the pins at each event (R24, R90, R119, R137). -/

namespace Sys2Proof.Machine

/-! ### A step runs the decoded instruction -/

/-- With a move at the head of the script, that move is made (log 1). -/
theorem step_of_script {s : State} {m : Move} {ms : List Move} (h : s.script = m :: ms) :
    step s = applyMove m { s with script := ms } := by
  simp [step, nextMove, h]

/-- At the end of the script the move is free (log 1). -/
theorem step_of_script_nil {s : State} (h : s.script = []) :
    step s = applyMove (Config.freeMove s.tick) { s with tick := s.tick + 1 } := by
  simp [step, nextMove, h]

/-- At CTRL's offset the port runs the decoded word (R49, R98). -/
theorem writePort_ctrl (v : Word) (s : State) : writePort HostReg.ctrl.access.offset v s = exec (decodeCtrl v) s := rfl

/-- A host's write to CTRL runs the decoded word (R98). -/
theorem hostMove_ctrl {s : State} {v : Word} {rest : List HostLine}
    (h : s.prog = .wr HostReg.ctrl.access v :: rest) : hostMove s = exec (decodeCtrl v) { s with prog := rest } := by
  have ha : HostReg.ctrl.access.Admitted := ⟨rfl, rfl⟩
  simp only [hostMove, h, runHostLine, if_pos ha, writePort_ctrl]

/-- The step SEQ stands at does not depend on the script (R31). -/
theorem seqFetch_script (s : State) (ms : List Move) : seqFetch { s with script := ms } = seqFetch s := by
  have hl (op : Instr) : stepList op { s with script := ms } = stepList op s := stepList_congr rfl rfl rfl (.inl rfl)
  simp only [seqFetch, hl]

/-- Settles O12: the script's move is taken off, and then it is the host's CTRL write, the fetched cycle, the open cycle's
next event, or a free move. -/
theorem stepRunsDecoded : Obligations.StepRunsDecoded := by
  refine ⟨fun s ms v rest hs hp => ?ctrl, fun s d ms i hs hi ht hc hf => ?fetch, fun s d ms c hs hi ht hc => ?cycle,
    fun s => step_of_script_nil⟩
  case ctrl => exact (step_of_script hs).trans (hostMove_ctrl hp)
  case fetch =>
    exact (step_of_script hs).trans
      (sequencerMove_fetch (s := { s with script := ms }) d hi ht hc ((seqFetch_script s ms).trans hf))
  case cycle => exact (step_of_script hs).trans (sequencerMove_cycle (s := { s with script := ms }) d hi ht hc)

/-! ### The transcript grows by at most one event, and where the event goes out -/

/-- Where an event may go out, by the cycle in progress before it: a command byte at its phase, a data byte at its phase,
the reset pin, a delay, a sample and a status read only between cycles; the framer's pin events anywhere. -/
def Event.GoesOutAt (o : Option Cycle) : Event → Prop
  | .cs _ | .dc _ => True
  | .cmd b => ∃ c k, o = some c ∧ c.phase = .cmdByte k ∧ b = Config.code k
  | .data _ => ∃ c, o = some c ∧ c.phase = .data
  | .rst _ | .delay _ | .sample _ | .statusRead _ => o = none

/-- From `s` to `t` the transcript grows by at most one event, which may go out at `o`. -/
def AppendsAt (o : Option Cycle) (s t : State) : Prop :=
  ∃ es, t.trace = s.trace ++ es ∧ es.length ≤ 1 ∧ ∀ e ∈ es, e.GoesOutAt o

theorem AppendsAt.of_trace_eq {o : Option Cycle} {s t : State} (h : t.trace = s.trace) : AppendsAt o s t :=
  ⟨[], by simp [h], by simp, by simp⟩

theorem AppendsAt.of_trace_append {o : Option Cycle} {s t : State} {e : Event} (h : t.trace = s.trace ++ [e])
    (he : e.GoesOutAt o) : AppendsAt o s t :=
  ⟨[e], h, by simp, by simpa using he⟩

/-- Acceptance and its faults emit nothing (R98, R243). -/
@[simp] theorem accept_trace (i : Instr) (s : State) : (accept i s).trace = s.trace := by
  rcases accept_cases i s with ⟨_, e⟩ | ⟨_, _, e⟩ | ⟨_, _, _, e⟩ | ⟨_, _, _, _, _, e⟩ | ⟨_, _, _, _, e⟩ <;> simp [e]

/-- A cycle begins with one pin event (R114, R115). -/
theorem beginCycle_appendsAt {c : PanelCommand} {p : Payload} {s t : State} {o : Option Cycle}
    (h : beginCycle c p s = .next t) : AppendsAt o s t := by
  unfold beginCycle at h
  cases hf : s.cfg.framing <;> rw [hf] at h <;> cases h
  case burst => exact .of_trace_append (e := .cs false) rfl trivial
  case perWrite => exact .of_trace_append (e := .dc Config.dcCmdLevel) rfl trivial

/-- An instruction emits nothing as a CTRL word, one pin event as a panel command. -/
theorem exec_appendsAt {i : Instr} {s t : State} {o : Option Cycle} (h : exec i s = .next t) : AppendsAt o s t := by
  rcases hc : i.cycle? with _ | ⟨c, p⟩
  · cases (exec_ctrl hc s).symm.trans h
    exact .of_trace_eq (accept_trace i s)
  · exact beginCycle_appendsAt ((exec_cycle hc s).symm.trans h)

@[simp] theorem enterFullStep_trace (s : State) : (enterFullStep s).trace = s.trace := by
  unfold enterFullStep
  split <;> simp

@[simp] theorem enterPartialStep_trace (s : State) : (enterPartialStep s).trace = s.trace := by
  unfold enterPartialStep
  split_ifs <;> simp

/-- A step of a list emits at most one event, and no byte. -/
theorem runSeqStep_appendsAt {st : SeqStep} {d : Draw} {s t : State} (h : runSeqStep st d s = .next t) :
    AppendsAt none s t := by
  cases st with
  | cycle i => exact exec_appendsAt h
  | rst v => cases h; exact .of_trace_append (e := .rst v) rfl rfl
  | delay n => cases h; exact .of_trace_append (e := .delay n) rfl rfl
  | poll back => cases h; exact .of_trace_append (e := .delay Config.tPoll) rfl rfl
  | sample =>
    cases h
    exact .of_trace_append (e := .sample d.busy) (by unfold sampleStep; split <;> simp) rfl
  | statusRead =>
    cases h
    exact .of_trace_append (e := .statusRead d.status) (by unfold statusReadStep; split <;> simp) rfl
  | enterFull => cases h; exact .of_trace_eq (enterFullStep_trace s)
  | enterPartial => cases h; exact .of_trace_eq (enterPartialStep_trace s)
  | setBackground _ | getBackground | getWidth | getHeight | finishInit | finish => cases h; exact .of_trace_eq rfl

/-- A step of the open cycle emits at most one event: a pin event, or the byte of its phase (R32). -/
theorem cycleStep_appendsAt (c : Cycle) (d : Draw) (s : State) : AppendsAt (some c) s (cycleStep c d s) := by
  rcases cycleStep_cases c d s with ⟨u, es, hu, hlen, he, _, _, hes⟩ | ⟨e, u, hu, hfail⟩
  · rw [hu]
    refine ⟨es, by rw [he], hlen, fun e hm => ?_⟩
    rcases hes with ⟨_, hpin⟩ | ⟨k, hph, rfl, _⟩ | ⟨b, hph, rfl, _⟩
    · obtain ⟨v, rfl | rfl⟩ := hpin e hm <;> trivial
    · cases List.mem_singleton.1 hm
      exact ⟨c, k, rfl, hph, rfl⟩
    · cases List.mem_singleton.1 hm
      exact ⟨c, rfl, hph⟩
  · have htr : u.trace = s.trace := by
      rcases hfail with ⟨_, rfl | rfl⟩ | ⟨_, rfl⟩ <;> simp
    obtain ⟨es, hes, hspec⟩ := transportError_spec e u
    rw [hu, hspec]
    rcases hes with rfl | rfl
    · exact .of_trace_eq (by simp [htr])
    · exact .of_trace_append (e := .cs true) (by simp [htr]) trivial

/-- The sequencer's move emits at most one event, where the cycle in progress puts it. -/
theorem sequencerMove_appendsAt {d : Draw} {s t : State} (h : sequencerMove d s = .next t) : AppendsAt s.cyc s t := by
  rcases sequencerMove_cases h with rfl | ⟨c, _, _, hc, rfl⟩ | ⟨_, _, _, _, hc, _, _, hrun⟩
  · exact .of_trace_eq rfl
  · rw [hc]; exact cycleStep_appendsAt c d s
  · rw [hc]; exact runSeqStep_appendsAt hrun

/-- The host's move emits nothing: a CTRL write starts an operation, whose events are the sequencer's (R98). -/
theorem hostMove_trace {s t : State} (h : hostMove s = .next t) : t.trace = s.trace := by
  rcases hostMove_cases h with e | ⟨_, _, _, _, _, e⟩ | ⟨_, _, _, e⟩ <;> rw [e]
  exact accept_trace _ _

@[simp] theorem hostStore_trace (a : Word) (b : Byte) (s : State) : (hostStore a b s).trace = s.trace := by
  unfold hostStore
  split <;> rfl

/-- Settles O53, agent by agent: only the sequencer's move emits. -/
theorem traceAppendOnly : Obligations.TraceAppendOnly := by
  intro m s t hm h
  have silent (ht : t.trace = s.trace) :
      ∃ es, t.trace = s.trace ++ es ∧ (es ≠ [] → ∃ d, m = .sequencer d) ∧ es.length ≤ 1 := ⟨[], by simp [ht]⟩
  cases m with
  | host => exact silent (hostMove_trace h)
  | sequencer d =>
    obtain ⟨es, he, hlen, _⟩ := sequencerMove_appendsAt h
    exact ⟨es, he, fun _ => ⟨d, rfl⟩, hlen⟩
  | timer => cases h; exact silent rfl
  | hostStore a b => cases h; exact silent (hostStore_trace a b s)
  | blkRst => exact absurd rfl hm

/-! ### The pins at each event -/

/-- At the command byte's phase CS_N is low and DC is at the command level (R111). -/
theorem CycleInv.pins_of_cmdByte {s : State} {c : Cycle} {k : PanelCommand} (h : CycleInv s c)
    (hp : c.phase = .cmdByte k) : s.csN = false ∧ s.dc = false := by
  obtain ⟨_, hcs, _, _, _, hcmd⟩ := h
  rw [hp] at hcs hcmd
  exact ⟨hcs, hcmd rfl⟩

/-- At a data byte's phase CS_N is low and DC is at the data level (R111). -/
theorem CycleInv.pins_of_data {s : State} {c : Cycle} (h : CycleInv s c) (hp : c.phase = .data) :
    s.csN = false ∧ s.dc = true := by
  obtain ⟨_, hcs, hdata, _⟩ := h
  rw [hp] at hcs hdata
  exact ⟨hcs, hdata rfl⟩

/-- Settles O55: where an event goes out fixes the phase of the cycle in progress, and the invariant ties the phase to the
pins; between cycles CS_N is high. -/
theorem bytesUnderPins : Obligations.BytesUnderPins := by
  intro d s t es hinv h he
  obtain ⟨es', he', _, hout⟩ := sequencerMove_appendsAt h
  obtain rfl : es' = es := List.append_cancel_left (he'.symm.trans he)
  refine ⟨fun b hb => ?cmd, fun b hb => ?data, fun hbetween => ?between⟩
  case cmd =>
    obtain ⟨c, k, hc, hph, _⟩ := hout _ hb
    exact (hinv.cycle c hc).1.pins_of_cmdByte hph
  case data =>
    obtain ⟨c, hc, hph⟩ := hout _ hb
    exact (hinv.cycle c hc).1.pins_of_data hph
  case between =>
    have hc : s.cyc = none := by
      rcases hbetween with ⟨_, hm⟩ | ⟨_, hm⟩ | ⟨_, hm⟩ <;> exact hout _ hm
    exact ⟨hc, (hinv.pins hc).1⟩

end Sys2Proof.Machine

/-! The proofs for the statements of 10_state.md: the invariant (R31, R32, R241, R253), who writes which register (R30, R33 to
R40), and the record of the panel (R46). -/

namespace Sys2Proof.Machine

/-! ### The invariant is kept -/

/-- In an open cycle RST_N is high: SEQ stands at a cycle of its list, not in the reset pulse (R147). -/
theorem Inv.rstN_of_cyc {s : State} (h : Inv s) (hi : s.inflight = true) {c : Cycle} (hc : s.cyc = some c) :
    s.rstN = true := by
  obtain ⟨op, ho, ⟨_, _, _, _, hlist⟩, _⟩ := h.position hi
  obtain ⟨i, _, hst, _⟩ := hlist c hc
  exact h.rstN_of_fetch hi (st := .cycle i) (by simpa [seqFetch, ho] using hst) (by simp) (by simp)

/-- At a delay of the list with RST_N low, SEQ stands at the reset pulse's first delay (R147). -/
theorem Inv.pulse_of_delay {s : State} (h : Inv s) (hi : s.inflight = true) {op : Instr} (hop : s.seqOp = some op) {n : Nat}
    (hst : (stepList op s)[s.seqStep]? = some (.delay n)) (hr : s.rstN = false) :
    pulsesReset op = true ∧ s.seqStep = 1 := by
  obtain ⟨_, _, _, hf⟩ := h.position hi
  rcases h.rst hr with hfault | ⟨op', ho', hp, hk⟩
  · simp [hf] at hfault
  · obtain rfl : op = op' := Option.some.inj (hop.symm.trans ho')
    refine ⟨hp, hk.resolve_right fun hk => ?_⟩
    rw [hk, (stepList_pulse s hp).2.2] at hst
    simp at hst

/-- With no delay running the timer's move changes nothing. -/
theorem timerMove_of_none {s : State} (h : s.timer = none) : timerMove s = s := by
  obtain ⟨⟩ := s
  cases h
  rfl

section
variable {s t : State} {d : Draw} {op : Instr} {st : SeqStep}

/-- An event and a move forward on the list, with RST_N high, keep the invariant. -/
theorem Inv.advance_emit (h : Inv s) (hi : s.inflight = true) (hc : s.cyc = none) (hop : s.seqOp = some op)
    (hr : s.rstN = true) {k : Nat} (hk : s.seqStep + k < (stepList op s).length) (e : Event) :
    Inv (advance k (emit e s)) :=
  h.move hi hc hop rfl (.inl rfl) hk (by simp [hr])

/-- A step of the list, between cycles, keeps the invariant. -/
theorem Inv.runSeqStep (h : Inv s) (hi : s.inflight = true) (ht : s.timer = none) (hc : s.cyc = none)
    (hop : s.seqOp = some op) (hst : (stepList op s)[s.seqStep]? = some st) (hrun : runSeqStep st d s = .next t) :
    Inv t := by
  obtain ⟨op', ho', ⟨hhost, _, _, hlt, _⟩, _⟩ := h.position hi
  obtain rfl : op = op' := Option.some.inj (hop.symm.trans ho')
  have hreach : s.seqStep + st.reach < (stepList op s).length := stepsFit_reach (stepsFit_stepList op s hhost) hst
  have hrst (h1 : st ≠ .delay Config.tRstLow) (h2 : st ≠ .rst true) : s.rstN = true :=
    h.rstN_of_fetch hi (by simpa [seqFetch, hop] using hst) h1 h2
  cases st with
  | rst v =>
    cases hrun
    obtain ⟨hp, hk⟩ := stepList_rst hhost hst
    refine h.move hi hc hop rfl (.inl rfl) hreach fun hv => ⟨hp, ?_⟩
    rcases hk with ⟨hk, _⟩ | ⟨_, rfl⟩
    · exact .inl (by simp [hk])
    · cases hv
  | delay n =>
    cases hrun
    refine h.move hi hc hop rfl (.inl rfl) hreach fun hr => ?_
    obtain ⟨hp, hk⟩ := h.pulse_of_delay hi hop hst hr
    exact ⟨hp, .inr (by simp [hk])⟩
  | cycle i =>
    obtain ⟨⟨c, p⟩, hcp⟩ := Option.isSome_iff_exists.1 (stepList_site hst)
    exact h.beginCycle hi ht hc (hrst (by simp) (by simp)) hop hst hcp ((exec_cycle hcp s).symm.trans hrun)
  | sample =>
    cases hrun
    have hr := hrst (by simp) (by simp)
    simp only [SeqStep.reach] at hreach
    unfold sampleStep
    split
    · exact h.advance_emit hi hc hop hr hreach _
    · exact h.advance_emit hi hc hop hr (by omega) _
  | statusRead =>
    cases hrun
    have hr := hrst (by simp) (by simp)
    simp only [SeqStep.reach] at hreach
    unfold statusReadStep
    split
    · exact h.advance_emit hi hc hop hr hreach _
    · exact h.advance_emit hi hc hop hr (by omega) _
  | poll back =>
    cases hrun
    have hr := hrst (by simp) (by simp)
    exact h.move hi hc hop rfl (.inl rfl) (by simp [pollStep]; omega) (by simp [pollStep, hr])
  | enterFull =>
    cases hrun
    have hr := hrst (by simp) (by simp)
    unfold enterFullStep
    split
    · exact h.raiseFault hc hr (by decide) (by decide)
    · exact h.move hi hc hop rfl (.inr (stepList_enter hhost hst (.inl rfl))) hreach (by simp [hr])
  | enterPartial =>
    cases hrun
    have hr := hrst (by simp) (by simp)
    unfold enterPartialStep
    split_ifs
    case neg => exact h.move hi hc hop rfl (.inr (stepList_enter hhost hst (.inr rfl))) hreach (by simp [hr])
    all_goals exact h.raiseFault hc hr (by decide) (by decide)
  | setBackground _ | getBackground | getWidth | getHeight | finishInit | finish =>
    cases hrun
    exact h.finish hi hc (hrst (by simp) (by simp)) rfl

/-- The sequencer's move keeps the invariant. -/
theorem Inv.sequencerMove (h : Inv s) (hrun : sequencerMove d s = .next t) : Inv t := by
  rcases sequencerMove_cases hrun with rfl | ⟨c, hi, _, hc, rfl⟩ | ⟨op, st, hi, ht, hc, hop, hst, hrun⟩
  · exact h
  · exact h.cycleStep hc (h.rstN_of_cyc hi hc) d
  · exact h.runSeqStep hi ht hc hop hst hrun

/-- The host's move keeps the invariant: its own registers, or acceptance of a CTRL word. -/
theorem Inv.hostMove (h : Inv s) (hrun : hostMove s = .next t) : Inv t := by
  rcases hostMove_cases hrun with e | ⟨_, _, _, _, _, e⟩ | ⟨v, rest, _, rfl⟩
  · exact h.ofHost (by rw [e])
  · exact h.ofHost (by rw [e])
  · exact Inv.accept (h.ofHost rfl) (decodeCtrl_cycle? v)

/-- The timer's move keeps the invariant: a delay runs only between cycles (R119). -/
theorem Inv.timerMove (h : Inv s) : Inv (timerMove s) := by
  by_cases ht : s.timer = none
  · rwa [timerMove_of_none ht]
  · have hi : s.inflight = true := by
      by_contra hn
      obtain ⟨_, _, hnone, _⟩ := h.idle (by simpa using hn)
      exact ht hnone
    have hc : s.cyc = none := Option.eq_none_iff_forall_ne_some.2 fun c hc => ht (h.cycle c hc).2
    obtain ⟨op, hop, ⟨_, _, _, hlt, _⟩, hf⟩ := h.position hi
    refine h.move hi hc hop rfl (.inl rfl) hlt fun hr => ?_
    rcases h.rst hr with hfault | ⟨op', ho', hp, hk⟩
    · simp [hf] at hfault
    · obtain rfl : op = op' := Option.some.inj (hop.symm.trans ho')
      exact ⟨hp, hk⟩

/-- The host's own store keeps the invariant: nothing of the block moves, and memory keeps its form. -/
theorem Inv.hostStore (h : Inv s) (a : Word) (b : Byte) : Inv (hostStore a b s) := by
  obtain ⟨hmem, hdrawn, e, htaint⟩ := hostStore_spec a b s
  have hm := hmem h.memWf
  have hd := hdrawn h.drawnInv
  generalize Machine.hostStore a b s = t at hm hd e htaint
  have hsl (op : Instr) : stepList op t = stepList op s :=
    stepList_congr (by rw [e]) (by rw [e]) (by rw [e]) (.inl (by rw [e]))
  exact {
    memWf := hm
    drawnInv := hd
    faultCode := by rw [e]; exact h.faultCode
    faultCodeLe := by rw [e]; exact h.faultCodeLe
    halted := by rw [e]; exact h.halted
    inflight := by rw [e]; exact h.inflight
    idle := fun hi => by
      have hi : s.inflight = false := by rw [e] at hi; exact hi
      obtain ⟨hk, hc, ht, hta⟩ := h.idle hi
      exact ⟨by rw [e]; exact hk, by rw [e]; exact hc, by rw [e]; exact ht, (htaint hi).trans hta⟩
    pins := by rw [e]; exact h.pins
    err := by rw [e]; exact h.err
    seq := fun op ho => by
      have := h.seq op (by rw [e] at ho; exact ho)
      unfold SeqInv at this ⊢
      rw [hsl, e]; exact this
    cycle := by rw [e]; exact h.cycle
    rst := by rw [e]; exact h.rst }

/-- Every agent's move keeps the invariant. -/
theorem Inv.applyMove {m : Move} (h : Inv s) (hrun : applyMove m s = .next t) : Inv t := by
  cases m with
  | host => exact h.hostMove hrun
  | sequencer d => exact h.sequencerMove hrun
  | timer => cases hrun; exact h.timerMove
  | hostStore a b => cases hrun; exact h.hostStore a b
  | blkRst => cases hrun; exact .blockReset h.memWf h.drawnInv

/-- Taking the next move from the state keeps the invariant (log 1). -/
theorem Inv.nextMove (h : Inv s) : Inv (nextMove s).2 := by
  unfold Machine.nextMove
  split <;> exact h.ofHost rfl

end

/-- Settles O48, agent by agent. -/
theorem stepKeepsInv : Obligations.StepKeepsInv := fun _ _ h hrun => h.nextMove.applyMove hrun

/-- Settles O47: reset is what block reset makes of itself. -/
theorem resetInv : Obligations.ResetInv := Inv.blockReset (s := State.reset) rfl ⟨rfl, fun _ _ h => by cases h⟩

/-! ### The model's own fault is not reached -/

/-- A step of a list always succeeds. -/
theorem runSeqStep_next (st : SeqStep) (d : Draw) (s : State) : ∃ t, runSeqStep st d s = .next t := by
  cases st with
  | cycle i => exact exec_next i s
  | _ => exact ⟨_, rfl⟩

/-- With no operation in flight, or a delay running, the sequencer's move changes nothing (R136). -/
theorem sequencerMove_still (d : Draw) {s : State} (h : s.inflight = false ∨ s.timer.isSome = true) :
    sequencerMove d s = .next s := by
  unfold sequencerMove
  rcases h with hi | ht
  · exact if_pos hi
  · obtain ⟨n, ht⟩ := Option.isSome_iff_exists.1 ht
    rw [ht]
    exact ite_self _

/-- In a state that meets the invariant the sequencer's move succeeds: SEQ is on its list. -/
theorem Inv.sequencerMove_next {s : State} (h : Inv s) (d : Draw) : ∃ t, Machine.sequencerMove d s = .next t := by
  by_cases still : s.inflight = false ∨ s.timer.isSome = true
  · exact ⟨s, sequencerMove_still d still⟩
  obtain ⟨hi, ht⟩ : s.inflight = true ∧ s.timer = none := by simpa using still
  cases hc : s.cyc with
  | some c => exact ⟨_, sequencerMove_cycle d hi ht hc⟩
  | none =>
    obtain ⟨st, hf⟩ := h.fetch hi
    obtain ⟨t, hrun⟩ := runSeqStep_next st d s
    exact ⟨t, (sequencerMove_fetch d hi ht hc hf).trans hrun⟩

/-- A host write always succeeds. -/
theorem writePort_next (off : Nat) (v : Word) (s : State) : ∃ t, writePort off v s = .next t := by
  unfold writePort
  split
  case h_1 => exact exec_next _ s
  all_goals exact ⟨_, rfl⟩

/-- The host's move never faults: it can only be refused (R68). -/
theorem hostMove_ne_fault (s : State) (r : Fault) : hostMove s ≠ .fault r := by
  intro h
  unfold hostMove at h
  split at h
  · cases h
  · rename_i l rest _
    cases l with
    | poll => cases h
    | rd a => simp only [runHostLine] at h; split at h <;> cases h
    | wr a v =>
      simp only [runHostLine] at h
      split at h
      · obtain ⟨t, ht⟩ := writePort_next a.offset v { s with prog := rest }
        cases ht.symm.trans h
      · cases h

/-- Settles O49: only the sequencer can fault, and it never runs off its list. -/
theorem invNeverFaults : Obligations.InvNeverFaults := by
  intro s r h hfault
  unfold step at hfault
  cases hm : (nextMove s).1 <;> rw [hm] at hfault
  case host => exact hostMove_ne_fault _ r hfault
  case sequencer d =>
    obtain ⟨t, ht⟩ := h.nextMove.sequencerMove_next d
    cases ht.symm.trans hfault
  all_goals cases hfault

/-! ### Who writes the block's registers -/

/-- `t` has the registers of `s` that the host can read beside INFLIGHT and FAULT, and the latch. -/
structure SameRegs (s t : State) : Prop where
  args : t.args = s.args := by rfl
  latched : t.latched = s.latched := by rfl
  err : t.err = s.err := by rfl
  mode : t.mode = s.mode := by rfl
  bg : t.bg = s.bg := by rfl
  lifecycle : t.lifecycle = s.lifecycle := by rfl
  errCode : t.errCode = s.errCode := by rfl
  result : t.result = s.result := by rfl

/-- A fault keeps every register but FAULT and FAULT_CODE (R243). -/
theorem SameRegs.raiseFault (code : BitVec 4) (s : State) : SameRegs s (raiseFault code s) := {}

/-- What each move but block reset writes of these registers: nothing; an argument; the latch and ERR as an operation is
accepted; MODE, BG, RESULT or LIFECYCLE at the step of the operation that owns it; or a transport error's ERR, ERR_CODE and
LIFECYCLE. -/
inductive Writes : Move → State → State → Prop where
  | nothing {m : Move} {s t : State} (h : SameRegs s t) : Writes m s t
  | argument {s : State} {r : HostReg} {v : Word} {rest : List HostLine} (a : Args) (hr : r ∈ argRegs)
      (hp : s.prog = .wr r.access v :: rest) : Writes .host s { s with prog := rest, args := a }
  | start {s : State} (i : Instr) (rest : List HostLine) (hf : s.fault = false) (hi : s.inflight = false) :
      Writes .host s (startOp i { s with prog := rest })
  | enterFull {s : State} (d : Draw) (hi : s.inflight = true) (hk : s.seqStep = 0)
      (hop : s.seqOp = some .updateFrame ∨ s.seqOp = some .updateAndDisplayFrame) :
      Writes (.sequencer d) s (advance 1 { s with mode := .full })
  | enterPartial {s : State} (d : Draw) (hi : s.inflight = true) (hk : s.seqStep = 0)
      (hop : s.seqOp = some .updatePartialFrame) (hm : s.mode = .full) :
      Writes (.sequencer d) s (advance 1 { s with mode := .quick })
  | setBackground {s : State} (d : Draw) (c : Color) (hop : s.seqOp = some (.setBackground c)) :
      Writes (.sequencer d) s (setBackgroundStep c s)
  | getBackground {s : State} (d : Draw) (hop : s.seqOp = some .getBackground) :
      Writes (.sequencer d) s (getBackgroundStep s)
  | getWidth {s : State} (d : Draw) (hop : s.seqOp = some .getWidth) : Writes (.sequencer d) s (getWidthStep s)
  | getHeight {s : State} (d : Draw) (hop : s.seqOp = some .getHeight) : Writes (.sequencer d) s (getHeightStep s)
  | finishInit {s : State} (d : Draw) (hop : s.seqOp = some .init ∨ s.seqOp = some .wakeUp) :
      Writes (.sequencer d) s (finishInitStep s)
  | error {s u : State} (d : Draw) (e : Nat) (hfail : TransportFails (.sequencer d) s e) (hu : SameRegs s u) :
      Writes (.sequencer d) s (transportError e u)

/-- Beginning a cycle writes none of the registers. -/
theorem beginCycle_sameRegs {c : PanelCommand} {p : Payload} {s t : State} (h : beginCycle c p s = .next t) :
    SameRegs s t := by
  obtain ⟨t', ht', e, _⟩ := beginCycle_spec c p s
  cases ht'.symm.trans h
  rw [e]
  exact {}

/-- What a step of a list writes. -/
theorem runSeqStep_writes {d : Draw} {s t : State} {op : Instr} {st : SeqStep} (hi : s.inflight = true)
    (hop : s.seqOp = some op) (hst : (stepList op s)[s.seqStep]? = some st) (hrun : runSeqStep st d s = .next t) :
    Writes (.sequencer d) s t := by
  have hsite := stepList_site hst
  have head := stepList_enter_head hst
  cases st with
  | rst _ | delay _ | poll _ | finish => cases hrun; exact .nothing {}
  | sample => cases hrun; refine .nothing ?_; unfold sampleStep; split <;> exact {}
  | statusRead => cases hrun; refine .nothing ?_; unfold statusReadStep; split <;> exact {}
  | cycle i =>
    obtain ⟨⟨c, p⟩, hcp⟩ := Option.isSome_iff_exists.1 hsite
    exact .nothing (beginCycle_sameRegs ((exec_cycle hcp s).symm.trans hrun))
  | enterFull =>
    cases hrun
    unfold enterFullStep
    split
    · exact .nothing (.raiseFault _ s)
    · refine .enterFull d hi (head (.inl rfl)) ?_
      cases op <;> cases hsite
      · exact .inl hop
      · exact .inr hop
  | enterPartial =>
    cases hrun
    unfold enterPartialStep
    split_ifs
    case neg hm _ =>
      refine .enterPartial d hi (head (.inr rfl)) ?_ (not_not.1 hm)
      cases op <;> cases hsite
      exact hop
    all_goals exact .nothing (.raiseFault _ s)
  | setBackground c =>
    cases hrun
    cases of_decide_eq_true hsite
    exact .setBackground d c hop
  | getBackground => cases hrun; cases op <;> cases hsite; exact .getBackground d hop
  | getWidth => cases hrun; cases op <;> cases hsite; exact .getWidth d hop
  | getHeight => cases hrun; cases op <;> cases hsite; exact .getHeight d hop
  | finishInit =>
    cases hrun
    refine .finishInit d ?_
    cases op <;> cases hsite
    · exact .inl hop
    · exact .inr hop

/-- What a step of the open cycle writes: nothing, unless the transport fails (R117, R118). -/
theorem cycleStep_writes {c : Cycle} (d : Draw) {s : State} (hc : s.cyc = some c) :
    Writes (.sequencer d) s (cycleStep c d s) := by
  rcases cycleStep_cases c d s with ⟨u, es, hu, _, e, _⟩ | ⟨e, u, hu, hfail⟩
  · rw [hu]
    exact .nothing (by rw [e]; exact {})
  · rw [hu]
    rcases hfail with ⟨ht, hu⟩ | ⟨hph, rfl⟩
    · refine .error d e ⟨d, rfl, .inl ht⟩ ?_
      rcases hu with rfl | rfl
      · exact {}
      · constructor <;> simp
    · exact .error d e ⟨d, rfl, .inr ⟨c, hc, hph⟩⟩ {}

theorem sequencerMove_writes {d : Draw} {s t : State} (h : sequencerMove d s = .next t) :
    Writes (.sequencer d) s t := by
  rcases sequencerMove_cases h with rfl | ⟨c, _, _, hc, rfl⟩ | ⟨op, st, hi, _, _, hop, hst, hrun⟩
  · exact .nothing {}
  · exact cycleStep_writes d hc
  · exact runSeqStep_writes hi hop hst hrun

/-- What the host's move writes: an argument, or the latch and ERR as an operation is accepted (R49, R98). -/
theorem hostMove_writes {s t : State} (h : hostMove s = .next t) : Writes .host s t := by
  rcases hostMove_cases h with e | ⟨r, v, rest, hr, hp, e⟩ | ⟨v, rest, _, e⟩
  · exact .nothing (by rw [e]; exact {})
  · rw [e]; exact .argument t.args hr hp
  · rw [e]
    rcases accept_cases (decodeCtrl v) { s with prog := rest } with
      ⟨_, e⟩ | ⟨_, _, e⟩ | ⟨_, _, _, e⟩ | ⟨_, _, _, _, _, e⟩ | ⟨hf, hi, _, _, e⟩ <;> rw [e]
    case inr.inr.inr.inr => exact .start _ rest hf hi
    all_goals exact .nothing {}

theorem applyMove_writes {m : Move} {s t : State} (hm : m ≠ .blkRst) (h : applyMove m s = .next t) : Writes m s t := by
  cases m with
  | host => exact hostMove_writes h
  | sequencer d => exact sequencerMove_writes h
  | timer => cases h; exact .nothing {}
  | hostStore a b =>
    cases h
    obtain ⟨_, _, e, _⟩ := hostStore_spec a b s
    exact .nothing (by rw [e]; exact {})
  | blkRst => exact absurd rfl hm

/-! What a transport error leaves as it was (R250). -/

@[simp] theorem transportError_args (e : Nat) (s : State) : (transportError e s).args = s.args := by
  obtain ⟨_, _, he⟩ := transportError_spec e s; rw [he]
@[simp] theorem transportError_latched (e : Nat) (s : State) : (transportError e s).latched = s.latched := by
  obtain ⟨_, _, he⟩ := transportError_spec e s; rw [he]
@[simp] theorem transportError_mode (e : Nat) (s : State) : (transportError e s).mode = s.mode := by
  obtain ⟨_, _, he⟩ := transportError_spec e s; rw [he]
@[simp] theorem transportError_bg (e : Nat) (s : State) : (transportError e s).bg = s.bg := by
  obtain ⟨_, _, he⟩ := transportError_spec e s; rw [he]
@[simp] theorem transportError_result (e : Nat) (s : State) : (transportError e s).result = s.result := by
  obtain ⟨_, _, he⟩ := transportError_spec e s; rw [he]
@[simp] theorem transportError_panel (e : Nat) (s : State) : (transportError e s).panel = s.panel := by
  obtain ⟨_, _, he⟩ := transportError_spec e s; rw [he]

/-- ERR_CODE takes a transport error value that 32 bits hold as it is (R38). -/
theorem errCodeOf_of_lt {e : Nat} (h : e < 2 ^ 32) : errCodeOf e = BitVec.ofNat 32 e := if_pos h

/-- Settles O50: among the writers of registers only block reset and the two MODE checks touch MODE. -/
theorem modeWriters : Obligations.ModeWriters := by
  intro m s t h hne
  by_cases hm : m = .blkRst
  · subst hm
    cases h
    exact .inl ⟨rfl, rfl⟩
  · refine .inr ?_
    cases applyMove_writes hm h with
    | nothing hs => exact absurd hs.mode hne
    | error d e _ hu => exact absurd ((transportError_mode e _).trans hu.mode) hne
    | enterFull d hi hk hop => exact ⟨⟨d, rfl⟩, hi, hk, hi, rfl, rfl, .inl ⟨hop, rfl⟩⟩
    | enterPartial d hi hk hop hfull => exact ⟨⟨d, rfl⟩, hi, hk, hi, rfl, rfl, .inr ⟨hop, hfull, rfl⟩⟩
    | argument | start | setBackground | getBackground | getWidth | getHeight | finishInit => exact absurd rfl hne

/-- Settles O51: among the writers of registers only SET_BACKGROUND touches BG, and only the three getters RESULT. -/
theorem accessorWriters : Obligations.AccessorWriters := by
  intro m s t h hm
  cases applyMove_writes hm h with
  | nothing hs => exact ⟨fun hne => absurd hs.bg hne, fun hne => absurd hs.result hne⟩
  | error d e _ hu =>
    exact ⟨fun hne => absurd ((transportError_bg e _).trans hu.bg) hne,
      fun hne => absurd ((transportError_result e _).trans hu.result) hne⟩
  | setBackground d c hop => exact ⟨fun _ => ⟨⟨d, rfl⟩, c, hop, rfl⟩, fun hne => absurd rfl hne⟩
  | getBackground d hop =>
    refine ⟨fun hne => absurd rfl hne, fun _ => ⟨⟨d, rfl⟩, .inl ⟨hop, ?_⟩⟩⟩
    cases hb : s.bg <;> simp [getBackgroundStep, hb, encodeColor, Word.ofBit]
  | getWidth d hop => exact ⟨fun hne => absurd rfl hne, fun _ => ⟨⟨d, rfl⟩, .inr (.inl ⟨hop, rfl⟩)⟩⟩
  | getHeight d hop => exact ⟨fun hne => absurd rfl hne, fun _ => ⟨⟨d, rfl⟩, .inr (.inr ⟨hop, rfl⟩)⟩⟩
  | argument | start | enterFull | enterPartial | finishInit =>
    exact ⟨fun hne => absurd rfl hne, fun hne => absurd rfl hne⟩

/-! ### When a cycle stands failed -/

/-- A cycle begins at its first pin event, not failed. -/
theorem beginCycle_not_failed {c : PanelCommand} {p : Payload} {s t : State} (h : beginCycle c p s = .next t) {k : Cycle}
    (hk : t.cyc = some k) (e : Nat) : k.phase ≠ .failed e := by
  unfold beginCycle at h
  cases hf : s.cfg.framing <;> rw [hf] at h <;> cases h <;> cases hk <;> simp

/-- A step of a list that is no cycle opens none. -/
theorem runSeqStep_cyc_none {st : SeqStep} {d : Draw} {s t : State} (hst : ∀ i, st ≠ .cycle i) (hc : s.cyc = none)
    (h : runSeqStep st d s = .next t) : t.cyc = none := by
  cases st with
  | cycle i => exact absurd rfl (hst i)
  | sample => cases h; unfold sampleStep; split <;> exact hc
  | statusRead => cases h; unfold statusReadStep; split <;> exact hc
  | enterFull => cases h; unfold enterFullStep; split <;> simp [hc]
  | enterPartial => cases h; unfold enterPartialStep; split_ifs <;> simp [hc]
  | rst _ | delay _ | poll _ => cases h; exact hc
  | setBackground _ | getBackground | getWidth | getHeight | finishInit | finish => cases h; rfl

/-- A step of a list, between cycles, leaves no failed cycle. -/
theorem runSeqStep_not_failed {st : SeqStep} {d : Draw} {s t : State} {op : Instr} (hc : s.cyc = none)
    (hst : (stepList op s)[s.seqStep]? = some st) (h : runSeqStep st d s = .next t) {k : Cycle} (hk : t.cyc = some k)
    (e : Nat) : k.phase ≠ .failed e := by
  by_cases hcycle : ∃ i, st = .cycle i
  · obtain ⟨i, rfl⟩ := hcycle
    obtain ⟨⟨c, p⟩, hcp⟩ := Option.isSome_iff_exists.1 (stepList_site hst)
    exact beginCycle_not_failed ((exec_cycle hcp s).symm.trans h) hk e
  · cases (runSeqStep_cyc_none (not_exists.1 hcycle) hc h).symm.trans hk

/-- Acceptance opens no cycle: one that is open after it was open before. -/
theorem cyc_of_accept_cyc {i : Instr} {s : State} {c : Cycle} (h : (accept i s).cyc = some c) : s.cyc = some c := by
  rcases accept_cases i s with ⟨_, e⟩ | ⟨_, _, e⟩ | ⟨_, _, _, e⟩ | ⟨_, _, _, _, _, e⟩ | ⟨_, _, _, _, e⟩ <;>
    rw [e] at h
  case inl | inr.inr.inr.inr => exact h
  all_goals cases h

/-- A cycle that is open after the host's move was open before. -/
theorem cyc_of_hostMove_cyc {s t : State} {c : Cycle} (h : hostMove s = .next t) (hc : t.cyc = some c) :
    s.cyc = some c := by
  rcases hostMove_cases h with e | ⟨_, _, _, _, _, e⟩ | ⟨_, rest, _, e⟩ <;> rw [e] at hc
  · exact hc
  · exact hc
  · exact cyc_of_accept_cyc (s := { s with prog := rest }) hc

/-- A move leaves a cycle failed only where it stood so before, or where the transport answers `Err(e)` to a byte that has
gone out (R117, log 13). -/
theorem failed_of_applyMove {m : Move} {s t : State} {c : Cycle} {e : Nat} (h : applyMove m s = .next t)
    (hc : t.cyc = some c) (he : c.phase = .failed e) :
    s.cyc = some c ∨ ∃ d, m = .sequencer d ∧ d.transport = .err e true := by
  cases m with
  | host => exact .inl (cyc_of_hostMove_cyc h hc)
  | sequencer d =>
    rcases sequencerMove_cases h with rfl | ⟨c', _, _, _, rfl⟩ | ⟨op, st, _, _, hno, _, hst, hrun⟩
    · exact .inl hc
    · rcases cycleStep_cases c' d s with ⟨u, _, hu, _, _, _, hsame, _⟩ | ⟨_, _, hu, _⟩ <;> rw [hu] at hc
      · rcases hsame with rfl | hsame
        · exact .inl hc
        · exact .inr ⟨d, rfl, hsame c e hc he⟩
      · cases hc
    · exact absurd he (runSeqStep_not_failed hno hst hrun hc e)
  | timer => cases h; exact .inl hc
  | hostStore a b =>
    cases h
    obtain ⟨_, _, heq, _⟩ := hostStore_spec a b s
    rw [heq] at hc
    exact .inl hc
  | blkRst => cases h; cases hc

/-- Settles O52: among the writers of registers INIT's completion sets LIFECYCLE, a transport error sets all three, and
acceptance clears ERR. -/
theorem statusWriters : Obligations.StatusWriters := by
  refine ⟨fun m s t h hm => ?_, fun _ _ _ _ _ h => failed_of_applyMove h⟩
  cases applyMove_writes hm h with
  | nothing hs =>
    exact ⟨fun hne => absurd hs.lifecycle hne, fun h0 h1 => by simp [hs.err, h0] at h1,
      fun hne => absurd hs.errCode hne, fun h1 h0 => by simp [hs.err, h1] at h0⟩
  | error d e hfail hu =>
    exact ⟨fun _ => .inr ⟨rfl, rfl, rfl, e, hfail⟩, fun _ _ => ⟨rfl, rfl, e, hfail, errCodeOf_of_lt⟩,
      fun _ => ⟨rfl, rfl, e, hfail, errCodeOf_of_lt⟩, fun _ h0 => by cases h0⟩
  | start i rest hf hi =>
    exact ⟨fun hne => absurd rfl hne, fun _ h1 => by simp at h1, fun hne => absurd rfl hne, fun _ _ => ⟨rfl, rfl, hf⟩⟩
  | finishInit d hop =>
    exact ⟨fun _ => .inl ⟨rfl, ⟨d, rfl⟩, hop, rfl⟩, fun h0 h1 => by simp [h0] at h1, fun hne => absurd rfl hne,
      fun h1 h0 => by simp [h1] at h0⟩
  | argument | enterFull | enterPartial | setBackground | getBackground | getWidth | getHeight =>
    exact ⟨fun hne => absurd rfl hne, fun h0 h1 => Bool.noConfusion (h0.symm.trans h1), fun hne => absurd rfl hne,
      fun h1 h0 => Bool.noConfusion (h1.symm.trans h0)⟩

/-! ### The argument registers and STATUS at the host port -/

/-- A host's write to a register goes through the port at the register's offset (R68, R96). -/
theorem hostMove_write {s : State} {r : HostReg} {v : Word} {rest : List HostLine} (h : s.prog = .wr r.access v :: rest) :
    hostMove s = writePort r.offset v { s with prog := rest } := by
  have ha : r.access.Admitted := ⟨rfl, by cases r <;> rfl⟩
  simp only [hostMove, h, runHostLine, if_pos ha]
  rfl

/-- A host's read of a register returns what the port has at the register's offset (R68, R96). -/
theorem hostMove_read {s : State} {r : HostReg} {rest : List HostLine} (h : s.prog = .rd r.access :: rest) :
    hostMove s = .next { s with prog := rest, rdata := readPort r.offset s } := by
  have ha : r.access.Admitted := ⟨rfl, by cases r <;> rfl⟩
  simp only [hostMove, h, runHostLine, if_pos ha]
  rfl

/-- A write to an argument register is read back and leaves what every other register reads (R30). -/
theorem writePort_argument {r : HostReg} (hr : r ∈ argRegs) (v : Word) (s : State) :
    ∃ a, writePort r.offset v s = .next { s with args := a } ∧ readPort r.offset { s with args := a } = v ∧
      ∀ r', r' ≠ r → readPort r'.offset { s with args := a } = readPort r'.offset s := by
  simp only [argRegs, List.mem_cons, List.not_mem_nil, or_false] at hr
  rcases hr with rfl | rfl | rfl | rfl | rfl | rfl <;>
    exact ⟨_, rfl, rfl, fun r' hne => by cases r' <;> trivial⟩

/-- A CTRL word names no operation exactly where OP is reserved or LUTSEL = 3 (R83, R88). -/
theorem illegalOp_decodeCtrl (v : Word) : illegalOp (decodeCtrl v) = true ↔
    v.extractLsb' 0 4 ∈ [0x0#4, 0xF#4] ∨ (v.extractLsb' 0 4 = 0xD#4 ∧ v.extractLsb' 4 2 = 3#2) := by
  have fields : ∀ (op : BitVec 4) (sel : BitVec 2) (col : Bool), illegalOp (ctrlFields op sel col) = true ↔
      op ∈ [0x0#4, 0xF#4] ∨ (op = 0xD#4 ∧ sel = 3#2) := by decide
  rw [decodeCtrl_fields]
  exact fields _ _ _

/-- The operations that need LIFECYCLE = Ready, by OP (R82). -/
theorem needsReady_decodeCtrl (v : Word) : needsReady (decodeCtrl v) = true ↔
    v.extractLsb' 0 4 ∈ [0x3#4, 0x4#4, 0x5#4, 0x6#4, 0x8#4, 0xD#4] := by
  have fields : ∀ (op : BitVec 4) (sel : BitVec 2) (col : Bool), needsReady (ctrlFields op sel col) = true ↔
      op ∈ [0x3#4, 0x4#4, 0x5#4, 0x6#4, 0x8#4, 0xD#4] := by decide
  rw [decodeCtrl_fields]
  exact fields _ _ _

/-- Settles O8: the port's writes, and among the writers of registers only the host's argument write touches an argument and
only acceptance the latch. -/
theorem argumentRegisters : Obligations.ArgumentRegisters := by
  refine ⟨fun s r v rest hr hp => ?write, fun m s t h hm hne => ?args, fun v s hacc hlegal hready => ?accepted,
    fun m s t h hm hne => ?latch⟩
  case write =>
    obtain ⟨a, hw, hsame, hother⟩ := writePort_argument hr v { s with prog := rest }
    exact ⟨_, (hostMove_write hp).trans hw, rfl, hsame, fun r' _ => hother r'⟩
  case accepted =>
    have hl : illegalOp (decodeCtrl v) = false := by
      rw [← Bool.not_eq_true, illegalOp_decodeCtrl]
      exact hlegal
    exact ⟨_, exec_accepts (decodeCtrl_cycle? v) hacc hl fun hn => hready ((needsReady_decodeCtrl v).1 hn), rfl, rfl⟩
  case args =>
    cases applyMove_writes hm h with
    | nothing hs => exact absurd hs.args hne
    | error d e _ hu => exact absurd ((transportError_args e _).trans hu.args) hne
    | argument a hr hp => exact ⟨rfl, _, _, _, hr, hp⟩
    | start | enterFull | enterPartial | setBackground | getBackground | getWidth | getHeight | finishInit =>
      exact absurd rfl hne
  case latch =>
    cases applyMove_writes hm h with
    | nothing hs => exact absurd hs.latched hne
    | error d e _ hu => exact absurd ((transportError_latched e _).trans hu.latched) hne
    | start i rest _ hi => exact ⟨rfl, hi, rfl, rfl⟩
    | argument | enterFull | enterPartial | setBackground | getBackground | getWidth | getHeight | finishInit =>
      exact absurd rfl hne

/-- The number that STATUS is packed from (R33). -/
def statusNat (s : State) : Nat :=
  flagCode s.inflight + 2 * flagCode s.err + 4 * flagCode s.fault + 16 * s.faultCode.toNat + 256 * modeCode s.mode +
    512 * encodeColor s.bg + 1024 * lifecycleCode s.lifecycle

theorem statusWord_eq (s : State) : statusWord s = BitVec.ofNat 32 (statusNat s) := rfl

theorem flagCode_le (b : Bool) : flagCode b ≤ 1 := by cases b <;> decide
theorem modeCode_le (f : Family) : modeCode f ≤ 1 := by cases f <;> decide
theorem encodeColor_le (c : Color) : encodeColor c ≤ 1 := by cases c <;> decide
theorem lifecycleCode_le (l : Lifecycle) : lifecycleCode l ≤ 2 := by cases l <;> decide

/-- The packed fields do not overlap: each is read back at its place, and nothing stands at a reserved one (R33). -/
theorem statusNat_fields (s : State) :
    statusNat s / 2 ^ 0 % 2 = flagCode s.inflight ∧ statusNat s / 2 ^ 1 % 2 = flagCode s.err ∧
    statusNat s / 2 ^ 2 % 2 = flagCode s.fault ∧ statusNat s / 2 ^ 3 % 2 = 0 ∧
    statusNat s / 2 ^ 4 % 2 ^ 4 = s.faultCode.toNat ∧ statusNat s / 2 ^ 8 % 2 = modeCode s.mode ∧
    statusNat s / 2 ^ 9 % 2 = encodeColor s.bg ∧ statusNat s / 2 ^ 10 % 2 ^ 2 = lifecycleCode s.lifecycle ∧
    statusNat s < 2 ^ 12 := by
  have h1 := flagCode_le s.inflight
  have h2 := flagCode_le s.err
  have h3 := flagCode_le s.fault
  have h4 : s.faultCode.toNat < 16 := s.faultCode.isLt
  have h5 := modeCode_le s.mode
  have h6 := encodeColor_le s.bg
  have h7 := lifecycleCode_le s.lifecycle
  unfold statusNat
  omega

/-- A bit of STATUS, by arithmetic. -/
theorem statusWord_bit (s : State) {i : Nat} (hi : i < 32) :
    (statusWord s).getLsbD i = decide (statusNat s / 2 ^ i % 2 = 1) := by
  rw [statusWord_eq, BitVec.getLsbD_ofNat, Nat.testBit_eq_decide_div_mod_eq]
  simp [hi]

/-- A field of STATUS, by arithmetic. -/
theorem statusWord_field (s : State) (i n : Nat) :
    (statusWord s).extractLsb' i n = BitVec.ofNat n (statusNat s / 2 ^ i) := by
  obtain ⟨_, _, _, _, _, _, _, _, hlt⟩ := statusNat_fields s
  apply BitVec.eq_of_toNat_eq
  rw [statusWord_eq, BitVec.extractLsb'_toNat, BitVec.toNat_ofNat, BitVec.toNat_ofNat,
    Nat.mod_eq_of_lt (hlt.trans (by decide)), Nat.shiftRight_eq_div_pow]

/-- Settles O9: STATUS is a packing whose fields do not overlap, and the port only reads it. -/
theorem statusWordLayout : Obligations.StatusWordLayout := by
  refine ⟨fun s => ?layout, fun s v rest hp => hostMove_write hp, fun s rest hp => hostMove_read hp, rfl⟩
  obtain ⟨h0, h1, h2, h3, h4, h8, h9, h10, hlt⟩ := statusNat_fields s
  refine ⟨?_, ?_, ?_, ?_, ?_, ?_, ?_, ?_, ?_⟩
  · rw [statusWord_bit s (by decide), h0]; cases s.inflight <;> rfl
  · rw [statusWord_bit s (by decide), h1]; cases s.err <;> rfl
  · rw [statusWord_bit s (by decide), h2]; cases s.fault <;> rfl
  · rw [statusWord_bit s (by decide), h3]; rfl
  · rw [statusWord_field]
    exact BitVec.eq_of_toNat_eq h4
  · rw [statusWord_bit s (by decide), h8]; cases s.mode <;> rfl
  · rw [statusWord_bit s (by decide), h9]; cases s.bg <;> rfl
  · rw [statusWord_field]
    refine BitVec.eq_of_toNat_eq (h10.trans ?_)
    cases s.lifecycle <;> rfl
  · rw [statusWord_field, Nat.div_eq_of_lt hlt]

/-! ### The record of the panel follows the bus -/

/-- The record after two stretches of events is that of the second after the first. -/
theorem PanelRecord.afterEvents_append (es es' : List Event) (r : PanelRecord) :
    r.afterEvents (es ++ es') = (r.afterEvents es).afterEvents es' := List.foldl_append

@[simp] theorem PanelRecord.afterEvents_nil (r : PanelRecord) : r.afterEvents [] = r := rfl

/-- A command byte leaves in the record its command: `CODE` is injective (R237). -/
@[simp] theorem PanelRecord.afterEvents_cmd (c : PanelCommand) (es : List Event) (r : PanelRecord) :
    r.afterEvents (.cmd (Config.code c) :: es) = (r.command c).afterEvents es := by
  simp [PanelRecord.afterEvents, commandOf_code]

@[simp] theorem PanelRecord.afterEvents_data (b : Byte) (es : List Event) (r : PanelRecord) :
    r.afterEvents (.data b :: es) = (r.data b).afterEvents es := rfl

@[simp] theorem PanelRecord.afterEvents_cs (v : Bool) (es : List Event) (r : PanelRecord) :
    r.afterEvents (.cs v :: es) = r.afterEvents es := rfl

@[simp] theorem PanelRecord.afterEvents_dc (v : Bool) (es : List Event) (r : PanelRecord) :
    r.afterEvents (.dc v :: es) = r.afterEvents es := rfl

/-- Data bytes go to the record one after the other. -/
@[simp] theorem PanelRecord.afterEvents_map_data (bs : List Byte) (r : PanelRecord) :
    r.afterEvents (bs.map .data) = bs.foldl (fun r b => r.data b) r := by
  induction bs generalizing r with
  | nil => rfl
  | cons b bs ih => simp [ih]

/-- Pin events leave the record as it was. -/
theorem PanelRecord.afterEvents_pins {es : List Event} (h : ∀ e ∈ es, ∃ v, e = .cs v ∨ e = .dc v) (r : PanelRecord) :
    r.afterEvents es = r := by
  induction es with
  | nil => rfl
  | cons e es ih =>
    have rest := ih fun e he => h e (List.mem_cons_of_mem _ he)
    obtain ⟨v, rfl | rfl⟩ := h e List.mem_cons_self
    · exact rest
    · exact rest

/-- From `s` to `t` the record of the panel changes by the events appended to the transcript. -/
def FollowsBus (s t : State) : Prop := ∃ es, t.trace = s.trace ++ es ∧ t.panel = s.panel.afterEvents es

/-- With no event the record stays. -/
theorem FollowsBus.silent {s t : State} (ht : t.trace = s.trace) (hp : t.panel = s.panel) : FollowsBus s t :=
  ⟨[], by simp [ht], hp⟩

/-- An event that carries no byte leaves the record as it was. -/
theorem FollowsBus.event {s t : State} {e : Event} (ht : t.trace = s.trace ++ [e])
    (he : ∀ r : PanelRecord, r.afterEvents [e] = r) (hp : t.panel = s.panel) : FollowsBus s t :=
  ⟨[e], ht, hp.trans (he s.panel).symm⟩

/-- A cycle begins with a pin event and no byte. -/
theorem beginCycle_followsBus {c : PanelCommand} {p : Payload} {s t : State} (h : beginCycle c p s = .next t) :
    FollowsBus s t := by
  unfold beginCycle at h
  cases hf : s.cfg.framing <;> rw [hf] at h <;> cases h
  case burst => exact .event (e := .cs false) rfl (fun _ => rfl) rfl
  case perWrite => exact .event (e := .dc Config.dcCmdLevel) rfl (fun _ => rfl) rfl

@[simp] theorem accept_panel (i : Instr) (s : State) : (accept i s).panel = s.panel := by
  rcases accept_cases i s with ⟨_, e⟩ | ⟨_, _, e⟩ | ⟨_, _, _, e⟩ | ⟨_, _, _, _, _, e⟩ | ⟨_, _, _, _, e⟩ <;> simp [e]

/-- A step of a list puts no byte on the bus. -/
theorem runSeqStep_followsBus {st : SeqStep} {d : Draw} {s t : State} (h : runSeqStep st d s = .next t) :
    FollowsBus s t := by
  cases st with
  | cycle i =>
    rcases hc : i.cycle? with _ | ⟨c, p⟩
    · cases (exec_ctrl hc s).symm.trans h
      exact .silent (accept_trace i s) (accept_panel i s)
    · exact beginCycle_followsBus ((exec_cycle hc s).symm.trans h)
  | rst v => cases h; exact .event (e := .rst v) rfl (fun _ => rfl) rfl
  | delay n => cases h; exact .event (e := .delay n) rfl (fun _ => rfl) rfl
  | poll back => cases h; exact .event (e := .delay Config.tPoll) rfl (fun _ => rfl) rfl
  | sample =>
    cases h
    unfold sampleStep
    split <;> exact .event (e := .sample d.busy) rfl (fun _ => rfl) rfl
  | statusRead =>
    cases h
    unfold statusReadStep
    split <;> exact .event (e := .statusRead d.status) rfl (fun _ => rfl) rfl
  | enterFull =>
    cases h
    exact .silent (enterFullStep_trace s) (by unfold enterFullStep; split <;> simp)
  | enterPartial =>
    cases h
    exact .silent (enterPartialStep_trace s) (by unfold enterPartialStep; split_ifs <;> simp)
  | setBackground _ | getBackground | getWidth | getHeight | finishInit | finish => cases h; exact .silent rfl rfl

/-- A step of the open cycle changes the record by the byte it emits. -/
theorem cycleStep_followsBus (c : Cycle) (d : Draw) (s : State) : FollowsBus s (cycleStep c d s) := by
  rcases cycleStep_cases c d s with ⟨u, es, hu, _, e, _, _, hes⟩ | ⟨e, u, hu, hfail⟩
  · rw [hu]
    refine ⟨es, by rw [e], ?_⟩
    rcases hes with ⟨hp, hpins⟩ | ⟨k, _, rfl, hp⟩ | ⟨b, _, rfl, hp⟩
    · exact hp.trans (PanelRecord.afterEvents_pins hpins _).symm
    · simpa using hp
    · exact hp
  · have hsame : u.trace = s.trace ∧ u.panel = s.panel := by
      rcases hfail with ⟨_, rfl | rfl⟩ | ⟨_, rfl⟩ <;> simp
    obtain ⟨es, hes, hspec⟩ := transportError_spec e u
    rw [hu]
    refine ⟨es, by rw [hspec, hsame.1], ?_⟩
    rw [transportError_panel, hsame.2]
    rcases hes with rfl | rfl <;> rfl

theorem sequencerMove_followsBus {d : Draw} {s t : State} (h : sequencerMove d s = .next t) : FollowsBus s t := by
  rcases sequencerMove_cases h with rfl | ⟨c, _, _, _, rfl⟩ | ⟨_, _, _, _, _, _, _, hrun⟩
  · exact .silent rfl rfl
  · exact cycleStep_followsBus c d s
  · exact runSeqStep_followsBus hrun

/-- The host's move puts no byte on the bus: a CTRL write only starts an operation. -/
theorem hostMove_panel {s t : State} (h : hostMove s = .next t) : t.panel = s.panel := by
  rcases hostMove_cases h with e | ⟨_, _, _, _, _, e⟩ | ⟨_, _, _, e⟩ <;> rw [e]
  exact accept_panel _ _

theorem applyMove_followsBus {m : Move} {s t : State} (hm : m ≠ .blkRst) (h : applyMove m s = .next t) :
    FollowsBus s t := by
  cases m with
  | host => exact .silent (hostMove_trace h) (hostMove_panel h)
  | sequencer d => exact sequencerMove_followsBus h
  | timer => cases h; exact .silent rfl rfl
  | hostStore a b =>
    cases h
    obtain ⟨_, _, e, _⟩ := hostStore_spec a b s
    exact .silent (hostStore_trace a b s) (by rw [e])
  | blkRst => exact absurd rfl hm

/-- Settles O58: every move follows the bus, and a whole cycle's events are its command byte and its payload. -/
theorem panelRecordFollowsBus : Obligations.PanelRecordFollowsBus := by
  refine ⟨fun m s t es hm h he => ?moves, fun c bs r => ?cycle⟩
  case moves =>
    obtain ⟨es', he', hp⟩ := applyMove_followsBus hm h
    obtain rfl : es' = es := List.append_cancel_left (he'.symm.trans he)
    exact hp
  case cycle => simp [burstEvents, PanelRecord.afterEvents_append, PanelRecord.afterCycle]

/-! ### No rule of the block reads the record -/

/-- `s` with another record of the panel. -/
def withPanel (p : PanelRecord) (s : State) : State := { s with panel := p }

/-- `t` is `s` but for the record of the panel. -/
def SameButPanel (s t : State) : Prop := ∃ p, t = withPanel p s

theorem stepList_withPanel (op : Instr) (p : PanelRecord) (s : State) :
    stepList op (withPanel p s) = stepList op s := stepList_congr rfl rfl rfl (.inl rfl)

theorem seqFetch_withPanel (p : PanelRecord) (s : State) : seqFetch (withPanel p s) = seqFetch s := by
  have hl (op : Instr) := stepList_withPanel op p s
  unfold seqFetch
  simp only [hl]
  rfl

theorem noteRead_withPanel (d : Draw) (a : Nat) (p : PanelRecord) (s : State) :
    noteRead d a (withPanel p s) = withPanel p (noteRead d a s) := by
  unfold noteRead
  rw [apply_ite (withPanel p)]
  rfl

theorem noteByte_withPanel (d : Draw) (pl : Payload) (i : Nat) (p : PanelRecord) (s : State) :
    noteByte d pl i (withPanel p s) = withPanel p (noteByte d pl i s) := by
  cases pl <;> simp only [noteByte, noteRead_withPanel, apply_ite (withPanel p)]

theorem transportError_withPanel (e : Nat) (p : PanelRecord) (s : State) :
    transportError e (withPanel p s) = withPanel p (transportError e s) := by
  have hcs : (withPanel p s).csN = s.csN := rfl
  unfold transportError
  rw [hcs]
  cases s.csN <;> rfl

theorem afterData_withPanel (c : Cycle) (d : Draw) (p : PanelRecord) (s : State) :
    afterData c d (withPanel p s) = withPanel p (afterData c d s) := by
  unfold afterData
  split
  · rfl
  · cases c.framing <;> rfl

/-- A byte write does the same with another record, if what follows the byte does (R117). -/
theorem busWrite_sameButPanel {c : Cycle} {d : Draw} {out go : State → State} {s t : State} (h : SameButPanel s t)
    (hout : SameButPanel (out s) (out t)) (hgo : ∀ p s, go (withPanel p s) = withPanel p (go s)) :
    SameButPanel (busWrite c d out go s) (busWrite c d out go t) := by
  obtain ⟨p, rfl⟩ := h
  obtain ⟨p', hout⟩ := hout
  unfold busWrite
  rcases d.transport with _ | ⟨e, _ | _⟩ <;> simp only
  · exact ⟨p', by rw [hout, hgo]⟩
  · exact ⟨p, transportError_withPanel e p s⟩
  · exact ⟨p', by rw [hout]; rfl⟩

/-- A step of the open cycle does the same with another record. -/
theorem cycleStep_withPanel (c : Cycle) (d : Draw) (p : PanelRecord) (s : State) :
    SameButPanel (cycleStep c d s) (cycleStep c d (withPanel p s)) := by
  unfold cycleStep
  cases c.phase with
  | dcCmd _ | csCmd _ | csCmdHigh | csData => exact ⟨p, rfl⟩
  | cmdByte k => exact busWrite_sameButPanel ⟨p, rfl⟩ ⟨p.command k, rfl⟩ fun _ _ => rfl
  | dcData => cases c.framing <;> cases decide (c.payload.length = 0) <;> exact ⟨p, rfl⟩
  | data =>
    have hb : payloadByte (withPanel p s) d c.payload c.sent = payloadByte s d c.payload c.sent :=
      payloadByte_congr rfl rfl rfl rfl d c.payload c.sent
    rw [hb, noteByte_withPanel]
    rcases payloadByte s d c.payload c.sent with _ | b
    · exact ⟨p, rfl⟩
    · exact busWrite_sameButPanel ⟨p, rfl⟩ ⟨p.data b, rfl⟩ (afterData_withPanel c d)
  | csHigh => by_cases hl : c.sent = c.payload.length <;> simp only [hl, if_true, if_false] <;> exact ⟨p, rfl⟩
  | failed e => exact ⟨p, transportError_withPanel e p s⟩

theorem accept_withPanel (i : Instr) (p : PanelRecord) (s : State) :
    accept i (withPanel p s) = withPanel p (accept i s) := by
  simp only [accept, apply_ite (withPanel p)]
  rfl

/-- An instruction does the same with another record. -/
theorem exec_withPanel {i : Instr} {s t : State} (p : PanelRecord) (h : exec i s = .next t) :
    exec i (withPanel p s) = .next (withPanel p t) := by
  rcases hc : i.cycle? with _ | ⟨c, pl⟩
  · cases (exec_ctrl hc s).symm.trans h
    rw [exec_ctrl hc, accept_withPanel]
  · rw [exec_cycle hc] at h ⊢
    unfold beginCycle at h ⊢
    have hcfg : (withPanel p s).cfg = s.cfg := rfl
    rw [hcfg]
    cases hf : s.cfg.framing <;> rw [hf] at h <;> cases h <;> rfl

/-- A step of a list does the same with another record: none of them sends a byte. -/
theorem runSeqStep_withPanel {st : SeqStep} {d : Draw} {s t : State} (p : PanelRecord) (h : runSeqStep st d s = .next t) :
    runSeqStep st d (withPanel p s) = .next (withPanel p t) := by
  cases st with
  | cycle i => exact exec_withPanel p h
  | sample => cases h; simp only [runSeqStep, sampleStep, apply_ite (withPanel p)]; rfl
  | statusRead => cases h; simp only [runSeqStep, statusReadStep, apply_ite (withPanel p)]; rfl
  | enterFull => cases h; simp only [runSeqStep, enterFullStep, apply_ite (withPanel p)]; rfl
  | enterPartial => cases h; simp only [runSeqStep, enterPartialStep, apply_ite (withPanel p)]; rfl
  | _ => cases h; rfl

/-- Settles O60, by where the sequencer stands: still, in a cycle, or at a step of its list. -/
theorem panelNoninterference : Obligations.PanelNoninterference := by
  intro d s t p h
  suffices hsame : ∃ p', sequencerMove d (withPanel p s) = .next (withPanel p' t) from hsame
  by_cases still : s.inflight = false ∨ s.timer.isSome = true
  · cases (sequencerMove_still d still).symm.trans h
    exact ⟨p, sequencerMove_still d still⟩
  obtain ⟨hi, ht⟩ : s.inflight = true ∧ s.timer = none := by simpa using still
  cases hc : s.cyc with
  | some c =>
    cases (sequencerMove_cycle d hi ht hc).symm.trans h
    obtain ⟨p', hp'⟩ := cycleStep_withPanel c d p s
    exact ⟨p', by rw [← hp']; exact sequencerMove_cycle d hi ht hc⟩
  | none =>
    cases hf : seqFetch s with
    | none => simp [sequencerMove, hi, ht, hc, hf] at h
    | some st =>
      have hrun := (sequencerMove_fetch d hi ht hc hf).symm.trans h
      have hf' : seqFetch (withPanel p s) = some st := (seqFetch_withPanel p s).trans hf
      exact ⟨p, (sequencerMove_fetch (s := withPanel p s) d hi ht hc hf').trans (runSeqStep_withPanel p hrun)⟩

end Sys2Proof.Machine

/-! The proofs for the statements of 20_memory.md: the host port (R49, R68, R70), what a sequencer step leaves of host memory
and of the host's registers (R60, R73, R136), and what a buffer read yields (R61 to R63). -/

namespace Sys2Proof.Machine

/-! ### The host port -/

/-- An offset names a register exactly where it is the register's (R70). -/
theorem ofOffset_eq_some {off : Nat} {r : HostReg} : HostReg.ofOffset off = some r ↔ off = r.offset := by
  refine ⟨fun h => ?_, ?_⟩
  · unfold HostReg.ofOffset at h
    split at h <;> cases h <;> rfl
  · rintro rfl
    cases r <;> rfl

/-- Every offset is a register's, or names none and is not on the list of R70. -/
theorem ofOffset_cases (off : Nat) :
    (∃ r : HostReg, off = r.offset) ∨
      HostReg.ofOffset off = none ∧ off ∉ [0x00, 0x04, 0x08, 0x0C, 0x10, 0x14, 0x18, 0x1C, 0x20, 0x24] := by
  rcases h : HostReg.ofOffset off with _ | r
  · refine .inr ⟨rfl, fun hm => ?_⟩
    simp only [List.mem_cons, List.not_mem_nil, or_false] at hm
    rcases hm with rfl | rfl | rfl | rfl | rfl | rfl | rfl | rfl | rfl | rfl <;> cases h
  · exact .inl ⟨r, ofOffset_eq_some.1 h⟩

/-- An aligned read returns what the port has at its offset (R68). -/
theorem hostMove_rd {s : State} {off : Nat} {rest : List HostLine} (ha : off % 4 = 0) (hp : s.prog = .rd ⟨4, off⟩ :: rest) :
    hostMove s = .next { s with prog := rest, rdata := readPort off s } := by
  simp [hostMove, hp, runHostLine, ha]

/-- An aligned write goes through the port at its offset (R68). -/
theorem hostMove_wr {s : State} {off : Nat} {v : Word} {rest : List HostLine} (ha : off % 4 = 0)
    (hp : s.prog = .wr ⟨4, off⟩ v :: rest) : hostMove s = writePort off v { s with prog := rest } := by
  simp [hostMove, hp, runHostLine, ha]

/-- An offset that names no register reads 0 (R49). -/
theorem readPort_reserved {off : Nat} (h : HostReg.ofOffset off = none) (s : State) : readPort off s = 0#32 := by
  simp [readPort, h]

/-- An offset that names no register ignores a write (R49). -/
theorem writePort_reserved {off : Nat} (h : HostReg.ofOffset off = none) (v : Word) (s : State) :
    writePort off v s = .next s := by
  simp [writePort, h]

/-- The block decodes the 64 bytes from EPD_BASE (R70). -/
theorem hostOffset_eq_some {addr off : Nat} :
    hostOffset addr = some off ↔ addr = Config.epdBase + off ∧ off < 64 := by
  unfold hostOffset
  split
  · simp only [Option.some.injEq]
    omega
  · simp only [reduceCtorEq, false_iff]
    omega

/-- Settles O7, register by register, and for an offset that names none. -/
theorem hostPortMap : Obligations.HostPortMap := by
  refine ⟨fun s off rest ha hp => ?read, fun s off v rest ha hp => ?write, fun _ _ => hostOffset_eq_some⟩
  case read =>
    rw [hostMove_rd ha hp]
    rcases ofOffset_cases off with ⟨r, rfl⟩ | ⟨hnone, hne⟩
    · cases r <;> rfl
    · simp only [List.mem_cons, List.not_mem_nil, or_false, not_or] at hne
      simp only [readPort_reserved hnone, hne, if_false]
  case write =>
    rw [hostMove_wr ha hp]
    rcases ofOffset_cases off with ⟨r, rfl⟩ | ⟨hnone, hne⟩
    · cases r <;> rfl
    · simp only [List.mem_cons, List.not_mem_nil, or_false, not_or] at hne
      simp only [writePort_reserved hnone, hne, if_false]

/-- The sequencer's move is never refused: every step of a list has its meaning. -/
theorem sequencerMove_ne_refused (d : Draw) (s : State) (r : Refusal) : sequencerMove d s ≠ .refused r := by
  by_cases still : s.inflight = false ∨ s.timer.isSome = true
  · simp [sequencerMove_still d still]
  obtain ⟨hi, ht⟩ : s.inflight = true ∧ s.timer = none := by simpa using still
  cases hc : s.cyc with
  | some c => simp [sequencerMove_cycle d hi ht hc]
  | none =>
    cases hf : seqFetch s with
    | none => simp [sequencerMove, hi, ht, hc, hf]
    | some st =>
      obtain ⟨t, hrun⟩ := runSeqStep_next st d s
      simp [sequencerMove_fetch d hi ht hc hf, hrun]

/-- A line that is an access is refused exactly where the access is not an aligned word, and by that access (R68). -/
theorem runHostLine_refused_iff {l : HostLine} {a : Access} {rest : List HostLine} {s : State} {r : Refusal}
    (hl : l = .rd a ∨ ∃ v, l = .wr a v) :
    runHostLine l rest s = .refused r ↔ ¬ a.Admitted ∧ r = .hostAccess a.width a.offset := by
  by_cases ha : a.Admitted
  · rcases hl with rfl | ⟨v, rfl⟩
    · simp [runHostLine, if_pos ha, ha]
    · obtain ⟨t, ht⟩ := writePort_next a.offset v { s with prog := rest }
      simp [runHostLine, if_pos ha, ht, ha]
  · have e : runHostLine l rest s = .refused (.hostAccess a.width a.offset) := by
      rcases hl with rfl | ⟨v, rfl⟩ <;> exact if_neg ha
    rw [e, Host.Outcome.refused.injEq, eq_comm, and_iff_right ha]

/-- The host's move is refused exactly where its next line is an access that is not an aligned word (R68). -/
theorem hostMove_refused_iff {s : State} {r : Refusal} :
    hostMove s = .refused r ↔
      ∃ (a : Access) (rest : List HostLine), (s.prog = .rd a :: rest ∨ ∃ v, s.prog = .wr a v :: rest) ∧
        ¬ a.Admitted ∧ r = .hostAccess a.width a.offset := by
  constructor
  · intro h
    rcases hp : s.prog with _ | ⟨l, rest⟩ <;> simp only [hostMove, hp] at h
    · cases h
    · cases l with
      | poll => cases h
      | rd a => exact ⟨a, rest, .inl rfl, (runHostLine_refused_iff (.inl rfl)).1 h⟩
      | wr a v => exact ⟨a, rest, .inr ⟨v, rfl⟩, (runHostLine_refused_iff (.inr ⟨v, rfl⟩)).1 h⟩
  · rintro ⟨a, rest, hp | ⟨v, hp⟩, h⟩ <;> simp only [hostMove, hp]
    · exact (runHostLine_refused_iff (.inl rfl)).2 h
    · exact (runHostLine_refused_iff (.inr ⟨v, rfl⟩)).2 h

/-- Settles O10: of the agents only the host can be refused. -/
theorem refusedHostAccess : Obligations.RefusedHostAccess := by
  intro m s r
  cases m with
  | host => exact hostMove_refused_iff.trans (by simp only [true_and])
  | sequencer d => simp [applyMove, sequencerMove_ne_refused]
  | timer | hostStore _ _ | blkRst => simp [applyMove]

/-! ### A read that host memory does not admit -/

/-- Host memory is 32 bits wide (R61). -/
theorem admits_of_ge {s : State} {a : Nat} (h : 2 ^ 32 ≤ a) : admits s a = false := by
  rw [admits, decide_eq_false (Nat.not_lt.2 h), Bool.false_and]

/-- A buffer's byte is the read at its address, verbatim (R62). -/
theorem payloadByte_buf {s : State} {d : Draw} {base len i : Nat} (hi : i < len) :
    payloadByte s d (.buf base len) i = memRead s d (base + i) := if_pos hi

/-- A complemented buffer's byte is the complement of the read at its address (R62). -/
theorem payloadByte_bufCompl {s : State} {d : Draw} {base len i : Nat} (hi : i < len) :
    payloadByte s d (.bufCompl base len) i = (memRead s d (base + i)).map (fun b => ~~~b) := if_pos hi

/-- At a data phase whose byte cannot be read the block is stuck (R61, R116). -/
theorem cycleStep_stuck {c : Cycle} {d : Draw} {s : State} (hph : c.phase = .data)
    (hb : payloadByte s d c.payload c.sent = none) : cycleStep c d s = s := by
  simp [cycleStep, hph, hb]

/-- At a data phase the byte is read, which settles it, and written to the bus (R116, R117). -/
theorem cycleStep_data {c : Cycle} {d : Draw} {s : State} {b : Byte} (hph : c.phase = .data)
    (hb : payloadByte s d c.payload c.sent = some b) :
    cycleStep c d s = busWrite c d (emitData b) (afterData c d) (noteByte d c.payload c.sent s) := by
  simp [cycleStep, hph, hb]

/-- Settles O30: the byte of a read that is not admitted does not exist, so the cycle stays where it is. -/
theorem stuckRead : Obligations.StuckRead := by
  refine ⟨fun s d c base len hc hi ht hph hp hlt ha => ?_, fun _ _ => admits_of_ge, fun _ _ _ => memRead_eq_none⟩
  have hread : memRead s d (base + c.sent) = none := memRead_eq_none.2 ha
  have hb : payloadByte s d c.payload c.sent = none := by
    rcases hp with hp | hp <;> rw [hp]
    · rw [payloadByte_buf hlt, hread]
    · rw [payloadByte_bufCompl hlt, hread, Option.map_none]
  rw [sequencerMove_cycle d hi ht hc, cycleStep_stuck hph hb]

/-! ### What a sequencer step leaves of host memory and of the host's registers -/

/-- `t` reads every byte that `s` holds: the platform and the held bytes stay, and no further address is disputed (R63). -/
structure KeepsHeld (s t : State) : Prop where
  cfg : t.cfg = s.cfg := by rfl
  tainted : t.tainted ⊆ s.tainted := by exact List.Subset.refl _
  held : ∀ a b, hostByte? s a = some b → hostByte? t a = some b := by exact fun _ _ h => h

/-- A read that no draw can change stays so. -/
theorem KeepsHeld.memRead_fixed {s t : State} (h : KeepsHeld s t) {a : Nat} {b : Byte}
    (hs : ∀ d, memRead s d a = some b) : ∀ d, memRead t d a = some b := by
  obtain ⟨ha, ht, hb⟩ := Machine.memRead_fixed.1 hs
  refine Machine.memRead_fixed.2 ⟨?_, fun hm => ht (h.tainted hm), h.held a b hb⟩
  simpa only [admits, h.cfg] using ha

theorem KeepsHeld.trans {s t u : State} (h : KeepsHeld s t) (h' : KeepsHeld t u) : KeepsHeld s u where
  cfg := h'.cfg.trans h.cfg
  tainted := List.Subset.trans h'.tainted h.tainted
  held a b hb := h'.held a b (h.held a b hb)

/-- What every sequencer step keeps: the host's registers and program, the latch, placed and held bytes, and the rest of
what is not the block's. -/
structure SequencerKeeps (s t : State) : Prop extends KeepsHeld s t where
  args : t.args = s.args := by rfl
  latched : t.latched = s.latched := by rfl
  prog : t.prog = s.prog := by rfl
  rdata : t.rdata = s.rdata := by rfl
  script : t.script = s.script := by rfl
  tick : t.tick = s.tick := by rfl
  mem : t.mem = s.mem := by rfl

theorem SequencerKeeps.trans {s t u : State} (h : SequencerKeeps s t) (h' : SequencerKeeps t u) :
    SequencerKeeps s u where
  toKeepsHeld := h.toKeepsHeld.trans h'.toKeepsHeld
  args := h'.args.trans h.args
  latched := h'.latched.trans h.latched
  prog := h'.prog.trans h.prog
  rdata := h'.rdata.trans h.rdata
  script := h'.script.trans h.script
  tick := h'.tick.trans h.tick
  mem := h'.mem.trans h.mem

/-- Letting go of the operation ends its broken duty and keeps the rest (R63). -/
theorem SequencerKeeps.leaveOp (s : State) : SequencerKeeps s (leaveOp s) where
  tainted := List.nil_subset _

theorem SequencerKeeps.raiseFault (code : BitVec 4) (s : State) : SequencerKeeps s (raiseFault code s) where
  tainted := List.nil_subset _

theorem SequencerKeeps.transportError (e : Nat) (s : State) : SequencerKeeps s (transportError e s) := by
  obtain ⟨_, _, he⟩ := transportError_spec e s
  rw [he]
  exact { tainted := List.nil_subset _ }

/-- Reading a payload's byte may settle it, and keeps every byte that was held (R63). -/
theorem SequencerKeeps.noteByte (d : Draw) (p : Payload) (i : Nat) (s : State) :
    SequencerKeeps s (noteByte d p i s) := by
  have held : ∀ a b, hostByte? s a = some b → hostByte? (Machine.noteByte d p i s) a = some b := fun _ _ => noteByte_keeps
  rw [noteByte_eq] at held ⊢
  exact { held := held }

theorem SequencerKeeps.afterData (c : Cycle) (d : Draw) (s : State) : SequencerKeeps s (afterData c d s) := by
  unfold Machine.afterData
  split
  · exact {}
  · cases c.framing <;> exact {}

/-- A byte write keeps what the byte's emission and what follows it keep (R117). -/
theorem SequencerKeeps.busWrite {out go : State → State} (hout : ∀ s, SequencerKeeps s (out s))
    (hgo : ∀ s, SequencerKeeps s (go s)) (c : Cycle) (d : Draw) (s : State) :
    SequencerKeeps s (busWrite c d out go s) := by
  unfold Machine.busWrite
  rcases d.transport with _ | ⟨e, _ | _⟩
  · exact (hout s).trans (hgo _)
  · exact .transportError e s
  · exact (hout s).trans {}

/-- The write of a data byte to the bus (R116). -/
theorem SequencerKeeps.dataWrite (c : Cycle) (d : Draw) (b : Byte) (s : State) :
    SequencerKeeps s (Machine.busWrite c d (emitData b) (Machine.afterData c d) s) :=
  .busWrite (fun _ => {}) (.afterData c d) c d s

/-- A step of the open cycle, by its phase. -/
theorem SequencerKeeps.cycleStep (c : Cycle) (d : Draw) (s : State) : SequencerKeeps s (cycleStep c d s) := by
  cases hph : c.phase with
  | data =>
    cases hb : payloadByte s d c.payload c.sent with
    | none => rw [cycleStep_stuck hph hb]; exact {}
    | some b => rw [cycleStep_data hph hb]; exact (SequencerKeeps.noteByte ..).trans (.dataWrite ..)
  | dcCmd _ | csCmd _ | csCmdHigh | csData => simp only [Machine.cycleStep, hph]; exact {}
  | cmdByte k => simp only [Machine.cycleStep, hph]; exact .busWrite (fun _ => {}) (fun _ => {}) c d s
  | dcData =>
    simp only [Machine.cycleStep, hph]
    cases c.framing <;> cases decide (c.payload.length = 0) <;> exact {}
  | csHigh => simp only [Machine.cycleStep, hph]; split <;> exact {}
  | failed e => simp only [Machine.cycleStep, hph]; exact .transportError e s

theorem SequencerKeeps.beginCycle {c : PanelCommand} {p : Payload} {s t : State} (h : beginCycle c p s = .next t) :
    SequencerKeeps s t := by
  obtain ⟨t', ht', e, _⟩ := beginCycle_spec c p s
  cases ht'.symm.trans h
  rw [e]
  exact {}

/-- A step of a list: where it is a cycle, it is a panel command's, which latches nothing. -/
theorem SequencerKeeps.runSeqStep {op : Instr} {k : Nat} {st : SeqStep} {d : Draw} {s t : State}
    (hst : (stepList op s)[k]? = some st) (h : runSeqStep st d s = .next t) : SequencerKeeps s t := by
  cases st with
  | cycle i =>
    obtain ⟨⟨c, p⟩, hcp⟩ := Option.isSome_iff_exists.1 (stepList_site hst)
    exact .beginCycle ((exec_cycle hcp s).symm.trans h)
  | rst _ | delay _ | poll _ => cases h; exact {}
  | sample => cases h; unfold sampleStep; split <;> exact {}
  | statusRead => cases h; unfold statusReadStep; split <;> exact {}
  | enterFull =>
    cases h
    unfold enterFullStep
    split
    · exact .raiseFault _ s
    · exact {}
  | enterPartial =>
    cases h
    unfold enterPartialStep
    split_ifs
    case neg => exact {}
    all_goals exact .raiseFault _ s
  | finish => cases h; exact .leaveOp s
  | setBackground _ | getBackground | getWidth | getHeight | finishInit =>
    cases h
    exact (SequencerKeeps.leaveOp s).trans {}

theorem SequencerKeeps.sequencerMove {d : Draw} {s t : State} (h : sequencerMove d s = .next t) :
    SequencerKeeps s t := by
  rcases sequencerMove_cases h with rfl | ⟨c, _, _, _, rfl⟩ | ⟨_, _, _, _, _, _, hst, hrun⟩
  · exact {}
  · exact .cycleStep c d s
  · exact .runSeqStep hst hrun

/-- Settles O25: what every sequencer step keeps, and nothing happens while a delay runs. -/
theorem sequencerFrame : Obligations.SequencerFrame := by
  intro d s t h
  have keeps := SequencerKeeps.sequencerMove h
  refine ⟨keeps.args, keeps.latched, keeps.cfg, keeps.prog, keeps.rdata, keeps.script, keeps.tick,
    fun a => by rw [keeps.mem], keeps.held, fun hdelay => ?_⟩
  cases (sequencerMove_still d (.inr (Option.isSome_iff_ne_none.2 hdelay))).symm.trans h
  rfl

/-! ### What a buffer read yields -/

/-- The read at a cycle's data phase settles its address: after the step every read there gives the byte that was read,
whatever the transport answered (R63). -/
theorem memRead_after_bufferStep {s : State} {d : Draw} {c : Cycle} {base len : Nat} {b : Byte} (hph : c.phase = .data)
    (hp : c.payload = .buf base len ∨ c.payload = .bufCompl base len) (hlt : c.sent < len)
    (ht : base + c.sent ∉ s.tainted) (hb : memRead s d (base + c.sent) = some b) :
    ∀ d', memRead (cycleStep c d s) d' (base + c.sent) = some b := by
  obtain ⟨v, hv⟩ : ∃ v, payloadByte s d c.payload c.sent = some v := by
    rcases hp with hp | hp <;> rw [hp]
    · exact ⟨b, (payloadByte_buf hlt).trans hb⟩
    · exact ⟨~~~b, by rw [payloadByte_bufCompl hlt, hb, Option.map_some]⟩
  have hnote : noteByte d c.payload c.sent s = noteRead d (base + c.sent) s := by
    rcases hp with hp | hp <;> rw [hp] <;> exact if_pos hlt
  rw [cycleStep_data hph hv, hnote]
  exact (SequencerKeeps.dataWrite c d v _).memRead_fixed (noteRead_settles ht hb)

/-- Acceptance and its faults leave memory as it is (R98, R243). -/
theorem KeepsHeld.accept (i : Instr) (s : State) : KeepsHeld s (accept i s) := by
  rcases accept_cases i s with ⟨_, e⟩ | ⟨_, _, e⟩ | ⟨_, _, _, e⟩ | ⟨_, _, _, _, _, e⟩ | ⟨_, _, _, _, e⟩ <;> rw [e]
  case inl | inr.inr.inr.inr => exact {}
  all_goals exact { tainted := List.nil_subset _ }

theorem KeepsHeld.hostMove {s t : State} (h : hostMove s = .next t) : KeepsHeld s t := by
  rcases hostMove_cases h with e | ⟨_, _, _, _, _, e⟩ | ⟨v, rest, _, e⟩ <;> rw [e]
  · exact {}
  · exact {}
  · exact .trans (t := { s with prog := rest }) {} (.accept _ _)

/-- Host memory that admits the address takes the byte, in place of one a read had drawn there (R60, R61). -/
theorem hostStore_of_admits {a : Word} {s : State} (ha : admits s a.toNat = true) (b : Byte) :
    hostStore a b s = { s with
      mem := Memory.write s.mem a.toNat b
      drawn := Memory.erase s.drawn a.toNat
      tainted := if inLiveBuffer s a.toNat && !s.tainted.contains a.toNat then a.toNat :: s.tainted else s.tainted } :=
  if_pos ha

/-- A store disputes no other address. -/
theorem mem_tainted_of_hostStore {a : Word} {b : Byte} {s : State} {k : Nat} (hk : k ≠ a.toNat)
    (h : k ∈ (hostStore a b s).tainted) : k ∈ s.tainted := by
  unfold hostStore at h
  split at h
  · simp only at h
    split at h
    · exact (List.mem_cons.1 h).resolve_left hk
    · exact h
  · exact h

/-- A store at another address leaves a read that no draw can change. -/
theorem memRead_fixed_hostStore {a : Word} {b v : Byte} {s : State} {k : Nat} (hk : k ≠ a.toNat)
    (h : ∀ d, memRead s d k = some v) : ∀ d, memRead (hostStore a b s) d k = some v := by
  obtain ⟨ha, ht, hb⟩ := memRead_fixed.1 h
  obtain ⟨_, _, he, _⟩ := hostStore_spec a b s
  refine memRead_fixed.2 ⟨?_, fun hm => ht (mem_tainted_of_hostStore hk hm), (hostByte_hostStore_other a b s hk).trans hb⟩
  rw [he]
  exact ha

/-- A store into the live buffer makes its address read as whatever is drawn (R63, log 20). -/
theorem memRead_hostStore_live {a : Word} {s : State} (ha : admits s a.toNat = true) (hl : inLiveBuffer s a.toNat = true)
    (b : Byte) (d : Draw) : memRead (hostStore a b s) d a.toNat = some d.mem := by
  have hadm : admits (hostStore a b s) a.toNat = true := by rw [hostStore_of_admits ha]; exact ha
  have ht : a.toNat ∈ (hostStore a b s).tainted := by
    rw [hostStore_of_admits ha, hl]
    by_cases h : a.toNat ∈ s.tainted <;> simp [h]
  rw [memRead, if_pos hadm, if_pos ht]

/-- The operations of R82 that read the buffer. -/
theorem inLiveBuffer_of_op {s : State} {op : Instr} {a : Nat} (hi : s.inflight = true) (hop : s.seqOp = some op)
    (hm : op ∈ [.updateFrame, .updatePartialFrame, .updateAndDisplayFrame]) (hlo : s.latched.bufBase.toNat ≤ a)
    (hhi : a < s.latched.bufBase.toNat + s.latched.bufLen.toNat) : inLiveBuffer s a = true := by
  have hr : readsBuffer op = true := by
    simp only [List.mem_cons, List.not_mem_nil, or_false] at hm
    rcases hm with rfl | rfl | rfl <;> rfl
  simp [inLiveBuffer, hi, hop, hr, hlo, hhi]

/-- Settles O31: a placed byte is held, a first read settles its byte, every move but a store there keeps what is held, a
store into the live buffer disputes its address, and a store writes its one byte. -/
theorem bufferReads : Obligations.BufferReads := by
  refine ⟨fun s d base len i b hi ha ht hb => ?placed, fun s t d c base len b hi htm hc hph hp hlt ht hb h => ?settled,
    fun m s t a b h hfix hstore => ?kept, fun s a b v d op hi hop hm hlo hhi ha hv => ?live, fun s a b ha => ?store⟩
  case placed =>
    have hread : memRead s d (base + i) = some b := memRead_held d ha ht (hostByte_placed hb)
    exact ⟨(payloadByte_buf hi).trans hread, by rw [payloadByte_bufCompl hi, hread, Option.map_some]⟩
  case settled =>
    cases (sequencerMove_cycle d hi htm hc).symm.trans h
    exact memRead_after_bufferStep hph hp hlt ht hb
  case kept =>
    cases m with
    | host => exact (KeepsHeld.hostMove h).memRead_fixed hfix
    | sequencer d => exact (SequencerKeeps.sequencerMove h).memRead_fixed hfix
    | hostStore k v => cases h; exact memRead_fixed_hostStore (hstore k v rfl).symm hfix
    | timer => cases h; exact KeepsHeld.memRead_fixed {} hfix
    | blkRst => cases h; exact KeepsHeld.memRead_fixed { tainted := List.nil_subset _ } hfix
  case live =>
    rw [memRead_hostStore_live ha (inLiveBuffer_of_op hi hop hm hlo hhi), hv]
  case store =>
    obtain ⟨_, _, he, _⟩ := hostStore_spec a b s
    refine ⟨?_, he, fun k hk => ⟨?_, hostByte_hostStore_other a b s hk⟩⟩ <;> rw [hostStore_of_admits ha]
    · exact Memory.read_write_same s.mem a.toNat b
    · exact Memory.read_write_other s.mem b hk

/-! ### An operation in flight does not see the argument registers -/

/-- `s` with other values in the argument registers. -/
def withArgs (a : Args) (s : State) : State := { s with args := a }

/-- The step SEQ stands at depends on the latch, not on the argument registers (R31, R73). -/
theorem seqFetch_withArgs (a : Args) (s : State) : seqFetch (withArgs a s) = seqFetch s := by
  have hl (op : Instr) : stepList op (withArgs a s) = stepList op s := stepList_congr rfl rfl rfl (.inl rfl)
  unfold seqFetch
  simp only [hl]
  rfl

/-- The step SEQ stands at can stand in its operation's list. -/
theorem site_of_seqFetch {s : State} {st : SeqStep} (h : seqFetch s = some st) : ∃ op, st.site op = true := by
  unfold seqFetch at h
  cases hop : s.seqOp <;> rw [hop] at h
  · cases h
  · exact ⟨_, stepList_site h⟩

theorem noteByte_withArgs (d : Draw) (p : Payload) (i : Nat) (a : Args) (s : State) :
    noteByte d p i (withArgs a s) = withArgs a (noteByte d p i s) := by
  have hread (k : Nat) : noteRead d k (withArgs a s) = withArgs a (noteRead d k s) := by
    unfold noteRead
    rw [apply_ite (withArgs a)]
    rfl
  cases p <;> simp only [noteByte, hread, apply_ite (withArgs a)]

theorem transportError_withArgs (e : Nat) (a : Args) (s : State) :
    transportError e (withArgs a s) = withArgs a (transportError e s) := by
  have hcs : (withArgs a s).csN = s.csN := rfl
  unfold transportError
  rw [hcs]
  cases s.csN <;> rfl

theorem afterData_withArgs (c : Cycle) (d : Draw) (a : Args) (s : State) :
    afterData c d (withArgs a s) = withArgs a (afterData c d s) := by
  unfold afterData
  split
  · rfl
  · cases c.framing <;> rfl

/-- A byte write does the same with other arguments, if the byte's emission and what follows it do (R117). -/
theorem busWrite_withArgs {out go : State → State} {a : Args} (hout : ∀ s, out (withArgs a s) = withArgs a (out s))
    (hgo : ∀ s, go (withArgs a s) = withArgs a (go s)) (c : Cycle) (d : Draw) (s : State) :
    busWrite c d out go (withArgs a s) = withArgs a (busWrite c d out go s) := by
  unfold busWrite
  rcases d.transport with _ | ⟨e, _ | _⟩ <;> simp only
  · rw [hout, hgo]
  · exact transportError_withArgs e a s
  · rw [hout]; rfl

/-- A step of the open cycle does the same with other arguments, by its phase. -/
theorem cycleStep_withArgs (c : Cycle) (d : Draw) (a : Args) (s : State) :
    cycleStep c d (withArgs a s) = withArgs a (cycleStep c d s) := by
  cases hph : c.phase with
  | data =>
    have hsame : payloadByte (withArgs a s) d c.payload c.sent = payloadByte s d c.payload c.sent :=
      payloadByte_congr rfl rfl rfl rfl d c.payload c.sent
    cases hb : payloadByte s d c.payload c.sent with
    | none => rw [cycleStep_stuck hph hb, cycleStep_stuck hph (hsame.trans hb)]
    | some b =>
      rw [cycleStep_data hph hb, cycleStep_data hph (hsame.trans hb), noteByte_withArgs]
      exact busWrite_withArgs (out := emitData b) (fun _ => rfl) (afterData_withArgs c d a) c d _
  | dcCmd _ | csCmd _ | csCmdHigh | csData => simp only [cycleStep, hph]; rfl
  | cmdByte k =>
    simp only [cycleStep, hph]
    exact busWrite_withArgs (out := emitCommand k) (go := toPhase c _) (fun _ => rfl) (fun _ => rfl) c d s
  | dcData =>
    simp only [cycleStep, hph]
    cases c.framing <;> cases decide (c.payload.length = 0) <;> rfl
  | csHigh => simp only [cycleStep, hph, apply_ite (withArgs a)]; rfl
  | failed e => simp only [cycleStep, hph]; exact transportError_withArgs e a s

theorem beginCycle_withArgs {c : PanelCommand} {p : Payload} {s t : State} (a : Args) (h : beginCycle c p s = .next t) :
    beginCycle c p (withArgs a s) = .next (withArgs a t) := by
  have hcfg : (withArgs a s).cfg = s.cfg := rfl
  unfold beginCycle at h ⊢
  rw [hcfg]
  cases hf : s.cfg.framing <;> rw [hf] at h <;> cases h <;> rfl

/-- A step of a list does the same with other arguments: where it is a cycle, it is a panel command's, and the checks
read the latch (R73). -/
theorem runSeqStep_withArgs {op : Instr} {st : SeqStep} {d : Draw} {s t : State} (a : Args) (hst : st.site op = true)
    (h : runSeqStep st d s = .next t) : runSeqStep st d (withArgs a s) = .next (withArgs a t) := by
  cases st with
  | cycle i =>
    obtain ⟨⟨c, p⟩, hcp⟩ := Option.isSome_iff_exists.1 hst
    exact (exec_cycle hcp _).trans (beginCycle_withArgs a ((exec_cycle hcp s).symm.trans h))
  | sample => cases h; simp only [runSeqStep, sampleStep, apply_ite (withArgs a)]; rfl
  | statusRead => cases h; simp only [runSeqStep, statusReadStep, apply_ite (withArgs a)]; rfl
  | enterFull => cases h; simp only [runSeqStep, enterFullStep, apply_ite (withArgs a)]; rfl
  | enterPartial => cases h; simp only [runSeqStep, enterPartialStep, apply_ite (withArgs a)]; rfl
  | _ => cases h; rfl

/-- Settles O59, by where the sequencer stands: still, in a cycle, or at a step of its list. -/
theorem latchNoninterference : Obligations.LatchNoninterference := by
  intro d s t a h
  change sequencerMove d (withArgs a s) = .next (withArgs a t)
  by_cases still : s.inflight = false ∨ s.timer.isSome = true
  · cases (sequencerMove_still d still).symm.trans h
    exact sequencerMove_still d still
  obtain ⟨hi, ht⟩ : s.inflight = true ∧ s.timer = none := by simpa using still
  cases hc : s.cyc with
  | some c =>
    cases (sequencerMove_cycle d hi ht hc).symm.trans h
    exact (sequencerMove_cycle (s := withArgs a s) d hi ht hc).trans (by rw [cycleStep_withArgs])
  | none =>
    cases hf : seqFetch s with
    | none => simp [sequencerMove, hi, ht, hc, hf] at h
    | some st =>
      obtain ⟨op, hsite⟩ := site_of_seqFetch hf
      have hrun := (sequencerMove_fetch d hi ht hc hf).symm.trans h
      have hf' : seqFetch (withArgs a s) = some st := (seqFetch_withArgs a s).trans hf
      exact (sequencerMove_fetch (s := withArgs a s) d hi ht hc hf').trans (runSeqStep_withArgs a hsite hrun)

end Sys2Proof.Machine

/-! The proofs for the statements of 30_encoding.md: the two encodings (R80 to R90), the window descriptor (R93), the commands
that go out (R95), the host's program (R96, R97) and acceptance (R98). -/

namespace Sys2Proof

/-! ### Decoding what the encoder writes -/

theorem encode_ofCycle (c : PanelCommand) (p : Payload) : encode (.ofCycle c p) = encodeCycle c p := by cases c <;> rfl

theorem Instr.literal_of_cycle?_none {i : Instr} (h : i.cycle? = none) : i.literal = i := by simp [Instr.literal, h]

/-- An instruction that is no panel command is encoded as a CTRL word. -/
theorem encode_eq_ctrl {i : Instr} (h : i.cycle? = none) : ∃ v, encode i = some (.ctrl v) := by
  cases i with
  | reserved0 | init | sleep | updateFrame | updatePartialFrame | displayFrame | updateAndDisplayFrame | wakeUp
  | clearFrame | setBackground _ | getBackground | getWidth | getHeight | setLut _ | waitUntilIdle | reservedF =>
    exact ⟨_, rfl⟩
  | _ => cases h

/-- Decoding what the encoder writes gives the instruction back, its payload written out as bytes. -/
theorem decode_encode (i : Instr) : Laws.EncodeDecode.Statement i := by
  rcases h : i.cycle? with _ | ⟨c, p⟩
  · cases i with
    | reserved0 => exact Laws.EncodeDecode.reserved0
    | init => exact Laws.EncodeDecode.init
    | sleep => exact Laws.EncodeDecode.sleep
    | updateFrame => exact Laws.EncodeDecode.updateFrame
    | updatePartialFrame => exact Laws.EncodeDecode.updatePartialFrame
    | displayFrame => exact Laws.EncodeDecode.displayFrame
    | updateAndDisplayFrame => exact Laws.EncodeDecode.updateAndDisplayFrame
    | wakeUp => exact Laws.EncodeDecode.wakeUp
    | clearFrame => exact Laws.EncodeDecode.clearFrame
    | setBackground c => exact Laws.EncodeDecode.setBackground c
    | getBackground => exact Laws.EncodeDecode.getBackground
    | getWidth => exact Laws.EncodeDecode.getWidth
    | getHeight => exact Laws.EncodeDecode.getHeight
    | setLut sel => exact Laws.EncodeDecode.setLut sel
    | waitUntilIdle => exact Laws.EncodeDecode.waitUntilIdle
    | reservedF => exact Laws.EncodeDecode.reservedF
    | _ => cases h
  · obtain rfl := Instr.ofCycle_of_cycle? h
    exact fun e he => decode_encodeCycle ((encode_ofCycle c p).symm.trans he)

/-- A cycle whose first byte is `CODE(c)` decodes to that command with the other bytes (R90, R237). -/
theorem decode_code_cons (c : PanelCommand) (bs : List Byte) :
    decode (.cycle (Config.code c :: bs)) = .ok (.ofCycle c (.bytes bs)) := by
  simp [decode, decodeCycle, commandOf_code]

/-- Settles O2: a CTRL word by the round trip of each operation, a cycle by the injectivity of `CODE`. -/
theorem encodeDecodeAgree : Obligations.EncodeDecodeAgree := by
  refine ⟨fun i hi => ?ctrl, fun c p bs hp => ⟨?encode, decode_code_cons c bs⟩⟩
  case ctrl =>
    obtain ⟨v, hv⟩ := encode_eq_ctrl hi
    exact ⟨v, hv, (decode_encode i _ hv).trans (by rw [Instr.literal_of_cycle?_none hi])⟩
  case encode => simp [encode_ofCycle, encodeCycle, hp]

/-! ### The bits a CTRL word is read in -/

/-- The CTRL word of the three fields, every other bit clear (R80, R97). -/
def fieldsWord (op : BitVec 4) (sel : BitVec 2) (col : Bool) : Word :=
  BitVec.setWidth 32 op ||| BitVec.setWidth 32 sel <<< 4 ||| BitVec.setWidth 32 (BitVec.ofBool col) <<< 8

/-- The fields of a word are its bits 5:0 and 8 (R80, R83, R84). -/
theorem and_fieldsMask (v : Word) :
    v &&& 0x0000013F#32 = fieldsWord (v.extractLsb' 0 4) (v.extractLsb' 4 2) (v.getLsbD 8) := by
  refine BitVec.eq_of_getLsbD_eq fun i hi => ?_
  unfold fieldsWord
  interval_cases i <;> simp

/-- The bits that the decoder reads of a word with this OP (R81): LUTSEL's for SET_LUT, COLOR's for SET_BACKGROUND. -/
def readMask (op : BitVec 4) : Word :=
  if op = 0xD#4 then 0x0000003F#32 else if op = 0x9#4 then 0x0000010F#32 else 0x0000000F#32

theorem readMask_subset (op : BitVec 4) : 0x0000013F#32 &&& readMask op = readMask op := by
  unfold readMask
  split_ifs <;> rfl

/-- Encoding again what was decoded from the fields clears the fields that were not read. -/
theorem encode_ctrlFields : ∀ (op : BitVec 4) (sel : BitVec 2) (col : Bool),
    encode (ctrlFields op sel col) = some (.ctrl (fieldsWord op sel col &&& readMask op)) := by decide

/-- Settles O3: both the decoder and the mask see only the three fields of the word. -/
theorem ctrlWordFields : Obligations.CtrlWordFields := by
  intro v
  change encode (decodeCtrl v) = some (.ctrl (v &&& readMask (v.extractLsb' 0 4)))
  rw [decodeCtrl_fields, encode_ctrlFields, ← and_fieldsMask, BitVec.and_assoc, readMask_subset]

/-- LUTSEL counts only for SET_LUT, COLOR only for SET_BACKGROUND (R81). -/
theorem ctrlFields_unread : ∀ (op : BitVec 4) (sel : BitVec 2) (col : Bool),
    ctrlFields op sel col = ctrlFields op (if op = 0xD#4 then sel else 0#2) (if op = 0x9#4 then col else false) := by
  decide

/-- Settles O4: the fields that count are the same in both words. -/
theorem reservedBitsIgnored : Obligations.ReservedBitsIgnored := by
  intro v v' hop hsel hcol
  rw [decodeCtrl_fields v, decodeCtrl_fields v', ctrlFields_unread, ctrlFields_unread (v'.extractLsb' 0 4), ← hop,
    ite_congr rfl hsel fun _ => rfl, ite_congr rfl hcol fun _ => rfl]

/-- Settles O1: the CTRL words by evaluation, the two fixed bytes as the `CODE` of their commands. -/
theorem decodeSampleWords : Obligations.DecodeSampleWords :=
  ⟨by decide, by decide, fun p0 p1 p2 p3 p4 => decode_code_cons .powerSetting [p0, p1, p2, p3, p4],
    decode_code_cons .forceTemperature [], rfl⟩

end Sys2Proof

namespace Sys2Proof.Machine

/-! ### The window descriptor -/

/-- The PartialWindow payload where its bytes fit (R93). -/
theorem windowPayload_fits {a : Args} (h : WindowFits a.x.toNat a.y.toNat a.w.toNat a.h.toNat) :
    windowPayload a = .bytes [.ofNat 8 a.x.toNat, .ofNat 8 (a.x.toNat + a.w.toNat - 1), .ofNat 8 (a.y.toNat / 256),
      .ofNat 8 (a.y.toNat % 256), .ofNat 8 ((a.y.toNat + a.h.toNat) / 256),
      .ofNat 8 ((a.y.toNat + a.h.toNat) % 256 - 1), 0x28#8] := by
  simp only [windowPayload, latchedWindow, windowBytes_fits h]
  rfl

/-- Where the window does not fit and the earlier checks pass, the check raises WindowRange (R93, R182). -/
theorem enterPartialStep_windowRange {s : State} (hl : s.latched.bufLen.toNat = s.latched.w.toNat * s.latched.h.toNat / 8)
    (hx : s.latched.x.toNat % 8 = 0) (hw : s.latched.w.toNat % 8 = 0) (hm : s.mode = .full)
    (hn : ¬ WindowFits s.latched.x.toNat s.latched.y.toNat s.latched.w.toNat s.latched.h.toNat) :
    enterPartialStep s = raiseFault codeWindowRange s := by
  rw [enterPartialStep_eq, if_neg (not_not.2 hl), if_neg (not_not.2 hx), if_neg (not_not.2 hw), if_neg (not_not.2 hm),
    if_pos hn]

/-- Settles O6: the descriptor's bytes hold the rule's integers where these fit, and the last check fails where one does
not. -/
theorem windowDescriptor : Obligations.WindowDescriptor := by
  refine fun a => ⟨fun hf => ?fits, fun hn s d ha hl hx hw hm => ?range⟩
  case fits =>
    refine ⟨_, _, _, _, _, _, windowPayload_fits hf, ?_⟩
    obtain ⟨h1, h2, h3, h4, h5, h6⟩ := hf
    simp only [BitVec.toNat_ofNat]
    omega
  case range =>
    subst ha
    refine ⟨_, rfl, ?_⟩
    rw [enterPartialStep_windowRange hl hx hw hm hn]
    exact ⟨rfl, rfl, rfl, hm, rfl⟩

/-! ### The host's program -/

/-- The expansion of a mnemonic (R97). -/
theorem expand_of_isHostOp {i : Instr} {v : Word} {vs : List Word} (hi : isHostOp i = true)
    (hv : encode i = some (.ctrl v)) (hl : vs.length = i.operandRegs.length) :
    i.expand vs = some ((i.operandRegs.zip vs).map (fun rv => .wr rv.1.access rv.2) ++ [.wr HostReg.ctrl.access v, .poll]) := by
  unfold Instr.expand
  split
  case h_1 | h_2 | h_3 => cases hi
  case h_4 v' he =>
    cases hv.symm.trans he
    exact if_pos hl
  case h_5 he | h_6 he => cases hv.symm.trans he

/-- The first move of a run, the host's. -/
theorem runMoves_host {ms : List Move} {s t : State} (h : hostMove s = .next t) :
    runMoves (.host :: ms) s = runMoves ms t := by
  simp only [runMoves, applyMove, h]

/-- UPDATE_PARTIAL_FRAME's operand writes, made by the host in turn (R97). -/
theorem runMoves_partialOperands {s : State} {b l x y w h : Word} {rest : List HostLine} (ms : List Move)
    (hp : s.prog = (Instr.updatePartialFrame.operandRegs.zip [b, l, x, y, w, h]).map
      (fun rv => .wr rv.1.access rv.2) ++ rest) :
    runMoves (List.replicate 6 .host ++ ms) s = runMoves ms { s with args := ⟨b, l, x, y, w, h⟩, prog := rest } :=
  calc
    _ = _ := runMoves_host (hostMove_write (r := .bufBase) hp)
    _ = _ := runMoves_host (hostMove_write (r := .bufLen) rfl)
    _ = _ := runMoves_host (hostMove_write (r := .x) rfl)
    _ = _ := runMoves_host (hostMove_write (r := .y) rfl)
    _ = _ := runMoves_host (hostMove_write (r := .w) rfl)
    _ = _ := runMoves_host (hostMove_write (r := .h) rfl)

/-- The poll reads STATUS and stays while INFLIGHT is 1 (R97). -/
theorem hostMove_poll {s : State} {rest : List HostLine} (h : s.prog = .poll :: rest) :
    hostMove s = .next { s with prog := (if s.inflight then .poll :: rest else rest), rdata := statusWord s } := by
  simp only [hostMove, h, runHostLine]
  rfl

/-- Settles O11: the expansion by the encoder, and its run line by line: six operand writes, then acceptance. -/
theorem pseudoInstruction : Obligations.PseudoInstruction := by
  refine ⟨fun i vs hi hl => ?expand, fun s b l x y w h lines rest hacc hready hexp hp => ?run, fun s rest => hostMove_poll⟩
  case expand =>
    have hc : i.cycle? = none := by
      rw [isHostOp, Bool.and_eq_true, Option.isNone_iff_eq_none] at hi
      exact hi.1
    obtain ⟨v, hv⟩ := encode_eq_ctrl hc
    exact ⟨v, hv, expand_of_isHostOp hi hv hl⟩
  case run =>
    cases (expand_of_isHostOp rfl rfl rfl).symm.trans hexp
    rw [List.append_assoc] at hp
    refine (runMoves_partialOperands [.host] hp).trans (runMoves_host ((hostMove_ctrl rfl).trans ?_))
    exact exec_accepts (i := .updatePartialFrame) rfl hacc rfl fun _ => hready

/-! ### A placed table word -/

/-- A table word that the decoder reads as a CTRL word is that word, its higher bits 0 (log 28). -/
theorem decodeCtrl_of_decodeTableWord {nbits w : Nat} {i : Instr} (h : decodeTableWord nbits w = some i)
    (hi : i.cycle? = none) : i = decodeCtrl (BitVec.ofNat 32 (w % 2 ^ nbits)) := by
  unfold decodeTableWord at h
  split_ifs at h
  · split at h
    case h_1 c _ =>
      have hc : decodeCycle [Config.code c] = .ok (.ofCycle c (.bytes [])) := decode_code_cons c []
      rw [hc] at h
      cases h
      simp at hi
    · exact (Option.some.inj h).symm
  · exact (Option.some.inj h).symm

/-- A panel command placed alone has its cycle as its list's first step (log 28). -/
theorem stepList_ofCycle (c : PanelCommand) (p : Payload) (s : State) :
    stepList (.ofCycle c p) s = [.cycle (.ofCycle c p), .finish] := by cases c <;> rfl

/-- A placed CTRL write is the next step (log 28). -/
theorem step_placeCtrlWrite (v : Word) (s : State) : step (placeCtrlWrite v s) = exec (decodeCtrl v) s := by
  obtain ⟨hctrl, _⟩ := stepRunsDecoded
  exact hctrl (placeCtrlWrite v s) s.script v s.prog rfl rfl

/-- A placed panel command is the next step (log 28). -/
theorem step_placePanelCommand {i : Instr} (hi : i.cycle?.isSome = true) (s : State) :
    step (placePanelCommand i s) =
      exec i { s with seqOp := some i, seqStep := 0, inflight := true, cyc := none, timer := none } := by
  obtain ⟨⟨c, p⟩, hc⟩ := Option.isSome_iff_exists.1 hi
  obtain rfl := Instr.ofCycle_of_cycle? hc
  obtain ⟨_, hfetch, _⟩ := stepRunsDecoded
  refine hfetch (placePanelCommand (.ofCycle c p) s) quietDraw s.script _ rfl rfl rfl rfl ?_
  simp [seqFetch, placePanelCommand, stepList_ofCycle]

/-- Settles O13, for a CTRL word at the host port and for a panel command at the sequencer. -/
theorem placedWordRuns : Obligations.PlacedWordRuns := by
  refine fun s nbits w i h => ⟨fun hi => ?ctrl, fun hi => ?panel⟩
  case ctrl =>
    have hplace : s.withFetchWord nbits w = placeCtrlWrite (BitVec.ofNat 32 (w % 2 ^ nbits)) s := by
      simp [State.withFetchWord, placeTableWord, h, hi]
    rw [hplace, step_placeCtrlWrite, ← decodeCtrl_of_decodeTableWord h hi]
  case panel =>
    obtain ⟨cp, hc⟩ := Option.isSome_iff_exists.1 hi
    have hplace : s.withFetchWord nbits w = placePanelCommand i s := by
      simp [State.withFetchWord, placeTableWord, h, hc]
    rw [hplace, step_placePanelCommand hi]

/-! ### Acceptance -/

section
variable {i : Instr} {s : State}

/-- A halted block ignores the write (R98, R253). -/
theorem accept_halted (h : s.fault = true) : accept i s = s := if_pos h

/-- With an operation in flight the write is Reentrant (R98, R248). -/
theorem accept_inflight (hf : s.fault = false) (hi : s.inflight = true) : accept i s = raiseReentrant s := by
  simp [accept, hf, hi]

/-- An encoding that names no operation raises IllegalOp (R98, R244). -/
theorem accept_illegal (ha : Accepting s) (hl : illegalOp i = true) : accept i s = raiseFault codeIllegalOp s := by
  simp [accept, ha.1, ha.2, hl]

/-- A frame operation unless Ready raises NotReady (R98, R245). -/
theorem accept_notReady (ha : Accepting s) (hl : illegalOp i = false) (hn : needsReady i = true)
    (hr : s.lifecycle ≠ .ready) : accept i s = raiseFault codeNotReady s := by
  simp [accept, ha.1, ha.2, hl, hn, hr]

end

/-- A fault raised with no operation in flight changes FAULT, FAULT_CODE and what belongs to an operation alone (R243). -/
theorem raiseFault_of_idle {s : State} (code : BitVec 4) (hi : s.inflight = false) :
    raiseFault code s = { s with
      fault := true, faultCode := code, seqOp := none, seqStep := 0, cyc := none, timer := none, tainted := [] } := by
  simp [raiseFault, leaveOp, hi]

/-- Settles O15, check by check in the order of R98. -/
theorem acceptance : Obligations.Acceptance := by
  intro v s
  have hexec := exec_ctrl (decodeCtrl_cycle? v) s
  refine ⟨_, hexec, fun hf => accept_halted hf, fun hf hi => ?inflight,
    fun ha => ⟨fun hill => ?illegal, fun h0 hF hD => ⟨fun hn hr => ?notReady, fun hr => ?start⟩⟩⟩
  case inflight => rw [accept_inflight hf hi]; rfl
  case illegal =>
    have hl : illegalOp (decodeCtrl v) = true := by simpa [illegalOp_decodeCtrl, or_assoc] using hill
    rw [accept_illegal ha hl, raiseFault_of_idle _ ha.2]
    rfl
  all_goals
    have hl : illegalOp (decodeCtrl v) = false := by
      rw [← Bool.not_eq_true, illegalOp_decodeCtrl]
      simpa [h0, hF] using hD
  case notReady =>
    rw [accept_notReady ha hl ((needsReady_decodeCtrl v).2 hn) hr, raiseFault_of_idle _ ha.2]
    rfl
  case start =>
    have hstart := exec_accepts (decodeCtrl_cycle? v) ha hl fun hn => hr ((needsReady_decodeCtrl v).1 hn)
    exact Host.Outcome.next.inj (hexec.symm.trans hstart)

/-- Settles O23: acceptance ends in one of five states, and each keeps these fields; only Reentrant drives CS_N. -/
theorem hostOpFrame : Obligations.HostOpFrame := by
  intro i s t hi h
  cases (exec_ctrl hi s).symm.trans h
  rcases accept_cases i s with ⟨_, e⟩ | ⟨hf, hfl, e⟩ | ⟨_, _, _, e⟩ | ⟨_, _, _, _, _, e⟩ | ⟨_, _, _, _, e⟩ <;> rw [e]
  case inr.inl => simp [hf, hfl]
  all_goals simp

/-! ### The commands that go out -/

/-- The commands an operation emits: DeepSleep and ForceTemperature never, GetStatus only where BUSY is a status query
(R95, R233). -/
abbrev Emittable (src : BusySource) (c : PanelCommand) : Prop :=
  c ≠ .deepSleep ∧ c ≠ .forceTemperature ∧ (src = .pin → c ≠ .getStatus)

/-- Whether a step of a list runs only a command an operation emits. -/
def SeqStep.runsEmittable (src : BusySource) : SeqStep → Bool
  | .cycle i => i.cycle?.all fun cp => decide (Emittable src cp.1)
  | _ => true

/-- A wait queries the status only where BUSY is read so (R131, R134). -/
theorem waitIdleSteps_runsEmittable (src : BusySource) :
    (waitIdleSteps src).all (SeqStep.runsEmittable src) = true := by cases src <;> rfl

theorem loadLuts_runsEmittable (src : BusySource) (sel : Option Family) :
    (loadLuts sel).all (SeqStep.runsEmittable src) = true := by
  unfold loadLuts
  cases fam sel <;> cases src <;> rfl

theorem stepList_runsEmittable {op : Instr} (s : State) (h : isHostOp op = true) :
    (stepList op s).all (SeqStep.runsEmittable s.cfg.busySource) = true := by
  have hwait := waitIdleSteps_runsEmittable s.cfg.busySource
  have hluts := loadLuts_runsEmittable s.cfg.busySource
  cases op with
  | init | wakeUp =>
    simp [stepList, wakeUpSteps, initSteps, hwait, SeqStep.runsEmittable, Instr.cycle?]
  | waitUntilIdle => simp [stepList, waitUntilIdleSteps, hwait, SeqStep.runsEmittable]
  | displayFrame =>
    simp [stepList, displayFrameSteps, triggerSteps, hwait, hluts, SeqStep.runsEmittable, Instr.cycle?]
  | updateAndDisplayFrame =>
    simp [stepList, updateAndDisplayFrameSteps, fullPlanes, triggerSteps, hwait, hluts, SeqStep.runsEmittable, Instr.cycle?]
  | clearFrame =>
    simp [stepList, clearFrameSteps, triggerSteps, hwait, hluts, SeqStep.runsEmittable, Instr.cycle?]
  | setLut sel => cases sel <;> simp [stepList, setLutSteps, hluts, SeqStep.runsEmittable]
  | sleep | updateFrame | updatePartialFrame | setBackground _ | getBackground | getWidth | getHeight =>
    simp [stepList, sleepSteps, updateFrameSteps, fullPlanes, updatePartialFrameSteps, SeqStep.runsEmittable, Instr.cycle?]
  | _ => cases h

/-- A cycle of a host operation's list is of a command that operations emit. -/
theorem stepList_emittable {op i : Instr} {s : State} {k : Nat} {c : PanelCommand} {p : Payload}
    (h : isHostOp op = true) (hk : (stepList op s)[k]? = some (.cycle i)) (hi : i.cycle? = some (c, p)) :
    Emittable s.cfg.busySource c := by
  have := all_stepList _ op s hk (stepList_runsEmittable s h)
  simpa only [SeqStep.runsEmittable, hi, Option.all_some, decide_eq_true_eq] using this

/-- A cycle in progress that has still to send its command is at a command that operations emit. -/
theorem Inv.command_emittable {s : State} (h : Inv s) {c : Cycle} {k : PanelCommand} (hc : s.cyc = some c)
    (hk : c.phase.command? = some k) : Emittable s.cfg.busySource k := by
  have hi : s.inflight = true := by
    by_contra hn
    obtain ⟨_, hnone, _⟩ := h.idle (by simpa using hn)
    simp [hnone] at hc
  obtain ⟨op, _, ⟨hhost, _, _, _, hlist⟩, _⟩ := h.position hi
  obtain ⟨i, k', hst, hcyc, hcmd⟩ := hlist c hc
  obtain rfl : k = k' := by simpa [hk] using hcmd
  exact stepList_emittable hhost hst hcyc

/-- Settles O54: a command byte goes out at the command of the cycle in progress, which by the invariant stands in the list
of the operation in flight. -/
theorem emittedCommands : Obligations.EmittedCommands := by
  intro m s t es b hinv hm h he hb
  obtain ⟨es₁, he₁, hseq, _⟩ := traceAppendOnly m s t hm h
  obtain rfl : es₁ = es := List.append_cancel_left (he₁.symm.trans he)
  obtain ⟨d, rfl⟩ := hseq (List.ne_nil_of_mem hb)
  obtain ⟨es₂, he₂, _, hout⟩ := sequencerMove_appendsAt h
  obtain rfl : es₂ = es₁ := List.append_cancel_left (he₂.symm.trans he₁)
  obtain ⟨c, k, hc, hph, rfl⟩ := hout _ hb
  exact ⟨k, rfl, hinv.command_emittable hc (by rw [hph]; rfl)⟩

end Sys2Proof.Machine

/-! The proofs for the statements of 40_framer.md: a cycle's pin-level transcript in Burst (R114) and in PerWrite (R115), the
byte-level transcript that both give (R113), and a transport error at any byte of a cycle (R117, R118). -/

namespace Sys2Proof.Machine

/-! ### How a cycle begins -/

/-- In Burst a cycle begins with CS low (R114). -/
theorem beginCycle_burst {s : State} (h : s.cfg.framing = .burst) (c : PanelCommand) (p : Payload) :
    beginCycle c p s = .next (setCycle ⟨.burst, p, .dcCmd c, 0⟩ (driveCs false s)) := by
  simp [beginCycle, h, setCycle]

/-- In PerWrite a cycle begins with DC at the command level (R115). -/
theorem beginCycle_perWrite {s : State} (h : s.cfg.framing = .perWrite) (c : PanelCommand) (p : Payload) :
    beginCycle c p s = .next (setCycle ⟨.perWrite, p, .csCmd c, 0⟩ (driveDc Config.dcCmdLevel s)) := by
  simp [beginCycle, h, setCycle]

/-- Settles O24: the cycle's beginning, framing by framing. -/
theorem panelCommandFrame : Obligations.PanelCommandFrame := by
  intro c p s
  rw [exec_ofCycle]
  cases hf : s.cfg.framing with
  | burst => exact ⟨_, _, beginCycle_burst hf c p, rfl, rfl, rfl, rfl, fun _ => ⟨rfl, rfl, rfl⟩, nofun, fun _ => rfl⟩
  | perWrite =>
    exact ⟨_, _, beginCycle_perWrite hf c p, rfl, rfl, rfl, rfl, nofun, fun _ => ⟨rfl, rfl, rfl⟩, fun _ => rfl⟩

/-- Settles O26: the cycle's beginning, then the framer's chain of R114. -/
theorem burstCycle : Obligations.BurstCycle := by
  intro c p s bs ds hf hi ht _ hy hlen hok
  refine ⟨_, s.panel.afterCycle c bs, (exec_ofCycle c p s).trans (beginCycle_burst hf c p), ?_⟩
  have hchain := inCycle_burst (s := setCycle ⟨.burst, p, .dcCmd c, 0⟩ (driveCs false s)) hi ht rfl
    (hy.congr rfl rfl rfl rfl) hlen hok
  rw [hchain.runDraws]
  simp [endCycle, driveCs, driveDc, emitBytes, emitCommand, setCycle, PanelRecord.afterCycle, Config.dcCmdLevel,
    Config.dcDataLevel]

/-! ### One data byte, and the bytes inside a chunk -/

/-- A cycle of the payload `p`, whose bytes `bs` can be read, can go on: its operation is in flight and no delay runs. -/
structure CanSend (p : Payload) (bs : List Byte) (s : State) : Prop where
  inflight : s.inflight = true
  timer : s.timer = none
  yields : Yields s p bs

section
variable {p : Payload} {bs : List Byte} {s : State} (h : CanSend p bs s)
include h

/-! What the framer does to the pins, the transcript and the cycle's record leaves it so. -/

theorem CanSend.driveCs (v : Bool) : CanSend p bs (driveCs v s) :=
  ⟨h.inflight, h.timer, h.yields.congr rfl rfl rfl rfl⟩
theorem CanSend.driveDc (v : Bool) : CanSend p bs (driveDc v s) :=
  ⟨h.inflight, h.timer, h.yields.congr rfl rfl rfl rfl⟩
theorem CanSend.emitCommand (c : PanelCommand) : CanSend p bs (emitCommand c s) :=
  ⟨h.inflight, h.timer, h.yields.congr rfl rfl rfl rfl⟩
theorem CanSend.emitData (b : Byte) : CanSend p bs (emitData b s) :=
  ⟨h.inflight, h.timer, h.yields.congr rfl rfl rfl rfl⟩
theorem CanSend.emitBytes (w : List Byte) : CanSend p bs (emitBytes w s) :=
  ⟨h.inflight, h.timer, h.yields.congr rfl rfl rfl rfl⟩
theorem CanSend.setCycle (c : Cycle) : CanSend p bs (setCycle c s) :=
  ⟨h.inflight, h.timer, h.yields.congr rfl rfl rfl rfl⟩

/-- One step of a cycle whose record is in place. -/
theorem CanSend.next {c : Cycle} {d : Draw} {ds : List Draw} {t u : State} (he : cycleStep c d (Machine.setCycle c s) = t)
    (ht : InCycle ds t u) : InCycle (d :: ds) (Machine.setCycle c s) u := .step h.inflight h.timer rfl he ht

end

/-! The cycle's record apart from what the framer emits: the record is written last. -/

theorem toPhase_eq_setCycle (c : Cycle) (ph : Phase) (s : State) :
    toPhase c ph s = setCycle { c with phase := ph } s := rfl
@[simp] theorem setCycle_setCycle (c c' : Cycle) (s : State) : setCycle c (setCycle c' s) = setCycle c s := rfl
@[simp] theorem driveCs_setCycle (v : Bool) (c : Cycle) (s : State) :
    driveCs v (setCycle c s) = setCycle c (driveCs v s) := rfl
@[simp] theorem driveDc_setCycle (v : Bool) (c : Cycle) (s : State) :
    driveDc v (setCycle c s) = setCycle c (driveDc v s) := rfl
@[simp] theorem emitCommand_setCycle (k : PanelCommand) (c : Cycle) (s : State) :
    emitCommand k (setCycle c s) = setCycle c (emitCommand k s) := rfl
@[simp] theorem emitData_setCycle (b : Byte) (c : Cycle) (s : State) :
    emitData b (setCycle c s) = setCycle c (emitData b s) := rfl
@[simp] theorem endCycle_setCycle (c : Cycle) (s : State) : endCycle (setCycle c s) = endCycle s := rfl

/-- A list cut at one of its places. -/
theorem exists_cut {α : Type} {l : List α} {n : Nat} (h : n < l.length) :
    ∃ pre a rest, l = pre ++ a :: rest ∧ n = pre.length :=
  ⟨l.take n, l[n], l.drop (n + 1), by simp, by simp [Nat.le_of_lt h]⟩

/-- A payload's byte at the place where its bytes are cut. -/
theorem Yields.byte {s : State} {p : Payload} {pre rest : List Byte} {b : Byte} (h : Yields s p (pre ++ b :: rest))
    (d : Draw) : payloadByte s d p pre.length = some b := by
  simpa using h.2 pre.length d (by simp)

/-- Before the last byte of a payload there are more to send. -/
theorem Yields.length_ne {s : State} {p : Payload} {pre rest : List Byte} (h : Yields s p (pre ++ rest)) (hr : rest ≠ []) :
    pre.length ≠ p.length := by
  simpa [h.1] using hr

/-- A data byte whose value no draw can change is written to the bus, and reading it settles nothing (R116). -/
theorem cycleStep_data_byte {fr : Framing} {p : Payload} {pre rest : List Byte} {b : Byte} {s : State}
    (hy : Yields s p (pre ++ b :: rest)) (d : Draw) :
    cycleStep ⟨fr, p, .data, pre.length⟩ d s =
      busWrite ⟨fr, p, .data, pre.length⟩ d (emitData b) (afterData ⟨fr, p, .data, pre.length⟩ d) s := by
  rw [cycleStep_data rfl (hy.byte d), noteByte_of_fixed hy.byte]

/-- Data bytes that end neither the payload nor a chunk, in either framing, one a step. -/
theorem inCycle_bytes {fr : Framing} {p : Payload} {rest : List Byte} (hr : rest ≠ []) (w : List Byte) :
    ∀ (pre : List Byte) (s : State) (ds : List Draw), CanSend p (pre ++ w ++ rest) s → ds.length = w.length →
    (∀ d ∈ ds, d.transport = .ok ∧ (fr = .perWrite → d.split = false)) →
    InCycle ds (setCycle ⟨fr, p, .data, pre.length⟩ s)
      (setCycle ⟨fr, p, .data, (pre ++ w).length⟩ (emitBytes w s)) := by
  induction w with
  | nil =>
    intro pre s ds _ hds _
    obtain rfl := List.length_eq_zero_iff.1 hds
    simpa [emitBytes] using InCycle.done (setCycle ⟨fr, p, .data, pre.length⟩ s)
  | cons b w ih =>
    intro pre s ds h hds hok
    obtain ⟨d, ds, rfl⟩ := List.exists_cons_of_length_eq_add_one hds
    obtain ⟨hd, hsplit⟩ := hok d List.mem_cons_self
    have h' : CanSend p (pre ++ [b] ++ w ++ rest) s := by simpa using h
    have hmore : pre.length + 1 ≠ p.length := by
      simpa using Yields.length_ne (pre := pre ++ [b]) (rest := w ++ rest) (by simpa using h.yields) (by simp [hr])
    refine h.next (t := setCycle ⟨fr, p, .data, (pre ++ [b]).length⟩ (emitData b s)) ?byte ?rest
    case byte =>
      rw [cycleStep_data_byte (rest := w ++ rest) (by simpa using (h.setCycle _).yields)]
      cases fr with
      | burst => simp [busWrite, hd, afterData, hmore, toPhase_eq_setCycle]
      | perWrite => simp [busWrite, hd, afterData, hmore, hsplit rfl, toPhase_eq_setCycle]
    case rest =>
      have key := ih (pre ++ [b]) (emitData b s) ds (h'.emitData b) (by simpa using hds)
        fun d hd => hok d (List.mem_cons_of_mem _ hd)
      rwa [List.append_assoc pre, List.singleton_append, ← emitBytes_cons] at key

/-! ### PerWrite -/

/-- Some steps of the open cycle, the transport taking every byte, lead from `s` to `t`. -/
def Sends (s t : State) : Prop := ∃ ds : List Draw, (∀ d ∈ ds, d.transport = .ok) ∧ InCycle ds s t

theorem Sends.trans {s t u : State} : Sends s t → Sends t u → Sends s u := by
  rintro ⟨ds, hds, h⟩ ⟨es, hes, h'⟩
  exact ⟨ds ++ es, fun d hd => (List.mem_append.1 hd).elim (hds d) (hes d), h.append h'⟩

/-- One step, with a draw whose transport answers Ok. -/
theorem CanSend.one {p : Payload} {bs : List Byte} {s t : State} {c : Cycle} (h : CanSend p bs s) (d : Draw)
    (he : cycleStep c d (Machine.setCycle c s) = t) (hd : d.transport = .ok := by rfl) : Sends (Machine.setCycle c s) t :=
  ⟨[d], by simpa using hd, h.next he (.done t)⟩

/-- The draw with which a chunk ends (R115). -/
def splitDraw : Draw := { quietDraw with split := true }

theorem emitBytes_append_singleton (w : List Byte) (b : Byte) (s : State) :
    emitBytes (w ++ [b]) s = emitData b (emitBytes w s) := by simp [emitBytes, emitData]

/-- A chunk gone out between CS low and CS high (R115). -/
def emitChunk (w : List Byte) (s : State) : State := driveCs true (emitBytes w (driveCs false s))

/-- Chunks gone out in turn. -/
def emitChunks (chunks : List (List Byte)) (s : State) : State := chunks.foldl (fun s w => emitChunk w s) s

theorem emitChunks_cons (w : List Byte) (chunks : List (List Byte)) (s : State) :
    emitChunks (w :: chunks) s = emitChunks chunks (emitChunk w s) := rfl

/-- Chunks move the transcript and the record alone, CS being high before them. -/
theorem emitChunks_eq (chunks : List (List Byte)) : ∀ s : State, s.csN = true →
    emitChunks chunks s = { s with
      trace := s.trace ++ chunks.flatMap fun w => [.cs false] ++ w.map .data ++ [.cs true]
      panel := chunks.flatten.foldl (fun r b => r.data b) s.panel } := by
  induction chunks with
  | nil => intro s _; simp [emitChunks]
  | cons w chunks ih =>
    intro s hs
    refine (ih (emitChunk w s) rfl).trans ?_
    simp [emitChunk, driveCs, emitBytes, hs]

/-- A chunk up to its last CS event: CS low, then its bytes, the last of which ends it. -/
theorem sends_chunk {p : Payload} {pre rest w : List Byte} {s : State} (hw : w ≠ [])
    (h : CanSend p (pre ++ w ++ rest) s) :
    Sends (setCycle ⟨.perWrite, p, .csData, pre.length⟩ s)
      (setCycle ⟨.perWrite, p, .csHigh, (pre ++ w).length⟩ (emitBytes w (driveCs false s))) := by
  obtain ⟨w, b, rfl⟩ : ∃ w' b, w = w' ++ [b] := ⟨_, _, (List.dropLast_append_getLast hw).symm⟩
  have h' : CanSend p (pre ++ w ++ b :: rest) (driveCs false s) := by simpa using h.driveCs false
  have hlow : Sends (setCycle ⟨.perWrite, p, .csData, pre.length⟩ s)
      (setCycle ⟨.perWrite, p, .data, pre.length⟩ (driveCs false s)) :=
    h.one quietDraw (by simp [cycleStep, toPhase_eq_setCycle])
  have hquiet {d : Draw} (hd : d ∈ List.replicate w.length quietDraw) : d = quietDraw := List.eq_of_mem_replicate hd
  have hbytes : Sends (setCycle ⟨.perWrite, p, .data, pre.length⟩ (driveCs false s))
      (setCycle ⟨.perWrite, p, .data, (pre ++ w).length⟩ (emitBytes w (driveCs false s))) :=
    ⟨List.replicate w.length quietDraw, fun d hd => by rw [hquiet hd]; rfl,
      inCycle_bytes (List.cons_ne_nil b rest) w pre (driveCs false s) _ h' (by simp)
        fun d hd => by rw [hquiet hd]; exact ⟨rfl, fun _ => rfl⟩⟩
  refine (hlow.trans hbytes).trans ((h'.emitBytes w).one splitDraw ?_)
  rw [cycleStep_data_byte ((h'.emitBytes w).setCycle _).yields]
  simp [busWrite, splitDraw, quietDraw, afterData, toPhase_eq_setCycle, emitBytes_append_singleton, ← Nat.add_assoc]

/-- The rest of a payload in nonempty chunks, from the first chunk's CS event to the cycle's end. -/
theorem sends_chunks {p : Payload} (chunks : List (List Byte)) : ∀ (pre : List Byte) (s : State), chunks ≠ [] →
    (∀ w ∈ chunks, w ≠ []) → CanSend p (pre ++ chunks.flatten) s →
    Sends (setCycle ⟨.perWrite, p, .csData, pre.length⟩ s) (endCycle (emitChunks chunks s)) := by
  induction chunks with
  | nil => intro _ _ h; exact absurd rfl h
  | cons w chunks ih =>
    intro pre s _ hne h
    obtain ⟨hw, hne⟩ := List.forall_mem_cons.1 hne
    have h' : CanSend p (pre ++ w ++ chunks.flatten) s := by simpa using h
    have hsent := (h'.driveCs false).emitBytes w
    rw [emitChunks_cons]
    refine (sends_chunk hw h').trans ?_
    rcases chunks with _ | ⟨v, chunks⟩
    · refine hsent.one quietDraw ?_
      have hlen : (pre ++ w).length = p.length := by simpa using h'.yields.1.symm
      simp only [cycleStep, if_pos hlen, driveCs_setCycle, endCycle_setCycle]
      rfl
    · have hmore : (pre ++ w).length ≠ p.length := h'.yields.length_ne (by simp [hne v List.mem_cons_self])
      have hhigh : Sends (setCycle ⟨.perWrite, p, .csHigh, (pre ++ w).length⟩ (emitBytes w (driveCs false s)))
          (setCycle ⟨.perWrite, p, .csData, (pre ++ w).length⟩ (emitChunk w s)) :=
        hsent.one quietDraw (by simp only [cycleStep, if_neg hmore, toPhase_eq_setCycle]; rfl)
      exact hhigh.trans (ih (pre ++ w) (emitChunk w s) (by simp) hne (hsent.driveCs true))

/-- A standalone data write, or the second part of a PerWrite cycle: DC at the data level, then the chunks (R115). -/
theorem sends_dataOnly {p : Payload} {chunks : List (List Byte)} {s : State} (h : CanSend p chunks.flatten s)
    (hne : ∀ w ∈ chunks, w ≠ []) :
    Sends (setCycle ⟨.perWrite, p, .dcData, 0⟩ s) (endCycle (emitChunks chunks (driveDc Config.dcDataLevel s))) := by
  rcases chunks with _ | ⟨w, chunks⟩
  · have hlen : p.length = 0 := h.yields.1
    exact h.one quietDraw (by simp [cycleStep, hlen, emitChunks])
  · have hlen : p.length ≠ 0 := (h.yields.length_ne (pre := []) (by simp [hne w List.mem_cons_self])).symm
    have hdc : Sends (setCycle ⟨.perWrite, p, .dcData, 0⟩ s)
        (setCycle ⟨.perWrite, p, .csData, 0⟩ (driveDc Config.dcDataLevel s)) :=
      h.one quietDraw (by simp [cycleStep, hlen, toPhase_eq_setCycle])
    exact hdc.trans (sends_chunks (w :: chunks) [] _ (by simp) hne (h.driveDc _))

/-- A PerWrite cycle's command write: CS low, the command byte, CS high (R115). -/
theorem sends_command {p : Payload} {bs : List Byte} {c : PanelCommand} {s : State} (h : CanSend p bs s) :
    Sends (setCycle ⟨.perWrite, p, .csCmd c, 0⟩ s)
      (setCycle ⟨.perWrite, p, .dcData, 0⟩ (driveCs true (emitCommand c (driveCs false s)))) := by
  have hlow : Sends (setCycle ⟨.perWrite, p, .csCmd c, 0⟩ s)
      (setCycle ⟨.perWrite, p, .cmdByte c, 0⟩ (driveCs false s)) :=
    h.one quietDraw (by simp [cycleStep, toPhase_eq_setCycle])
  have hbyte : Sends (setCycle ⟨.perWrite, p, .cmdByte c, 0⟩ (driveCs false s))
      (setCycle ⟨.perWrite, p, .csCmdHigh, 0⟩ (emitCommand c (driveCs false s))) :=
    (h.driveCs false).one quietDraw (by simp [cycleStep, busWrite, quietDraw, toPhase_eq_setCycle])
  exact (hlow.trans hbyte).trans
    (((h.driveCs false).emitCommand c).one quietDraw (by simp [cycleStep, toPhase_eq_setCycle]))

/-- Settles O27: the command write, then the data write of any split. -/
theorem perWriteCycle : Obligations.PerWriteCycle := by
  refine ⟨fun c p s bs chunks hf hi ht _ hy hbs hne => ?cycle, fun p s bs chunks hcs hi ht _ hy hbs hne => ?dataOnly⟩
  all_goals
    subst hbs
    have h : CanSend p chunks.flatten s := ⟨hi, ht, hy⟩
  case cycle =>
    have h' := h.driveDc Config.dcCmdLevel
    obtain ⟨ds, hok, hchain⟩ :=
      (sends_command (c := c) h').trans (sends_dataOnly (((h'.driveCs false).emitCommand c).driveCs true) hne)
    refine ⟨_, ds, s.panel.afterCycle c chunks.flatten, (exec_ofCycle c p s).trans (beginCycle_perWrite hf c p), hok, ?_⟩
    rw [hchain.runDraws, emitChunks_eq _ _ rfl]
    simp [endCycle, driveDc, driveCs, emitCommand, perWriteEvents, dataOnlyEvents, PanelRecord.afterCycle,
      Config.dcDataLevel]
  case dataOnly =>
    obtain ⟨ds, hok, hchain⟩ := sends_dataOnly h hne
    refine ⟨ds, chunks.flatten.foldl (fun r b => r.data b) s.panel, hok, hchain.runDraws.trans ?_⟩
    rw [emitChunks_eq _ (driveDc Config.dcDataLevel s) hcs]
    simp [endCycle, driveDc, dataOnlyEvents, Config.dcDataLevel]

/-! ### The byte-level transcript -/

@[simp] theorem byteLevel_append (tr tr' : List Event) : byteLevel (tr ++ tr') = byteLevel tr ++ byteLevel tr' :=
  List.filter_append ..
@[simp] theorem byteLevel_nil : byteLevel [] = [] := rfl
@[simp] theorem byteLevel_cs (v : Bool) (tr : List Event) : byteLevel (.cs v :: tr) = byteLevel tr := rfl
@[simp] theorem byteLevel_dc (v : Bool) (tr : List Event) : byteLevel (.dc v :: tr) = byteLevel tr := rfl
@[simp] theorem byteLevel_cmd (b : Byte) (tr : List Event) : byteLevel (.cmd b :: tr) = .cmd b :: byteLevel tr := rfl
@[simp] theorem byteLevel_data (b : Byte) (tr : List Event) : byteLevel (.data b :: tr) = .data b :: byteLevel tr := rfl

/-- The byte-level events that a cycle in progress with the payload bytes `bs` has still to emit: the command byte where it
has not gone out, and the data bytes that have not. Nothing where no cycle is open. -/
def owed (bs : List Byte) : Option Cycle → List Event
  | none => []
  | some c => (c.phase.command?.map fun k => .cmd (Config.code k)).toList ++ (bs.drop c.sent).map .data

/-- What holds all along a cycle of the payload `p` that meets no transport error: with what the cycle still owes, the
byte-level transcript is `total`. -/
structure Sending (p : Payload) (bs : List Byte) (total : List Event) (s : State) : Prop where
  yields : Yields s p bs
  total : byteLevel s.trace ++ owed bs s.cyc = total
  cycle : ∀ c, s.cyc = some c →
    c.payload = p ∧ c.phase.sentFits c.sent p.length = true ∧ ∀ e, c.phase ≠ .failed e

/-- `u` is `s` after the events `es`, which touch the framer's pins and the record alone. -/
def After (es : List Event) (s u : State) : Prop :=
  u = { s with csN := u.csN, dc := u.dc, trace := s.trace ++ es, panel := u.panel }

theorem After.yields {es : List Event} {s u : State} {p : Payload} {bs : List Byte} (h : After es s u)
    (hy : Yields s p bs) : Yields u p bs := hy.congr (by rw [h]) (by rw [h]) (by rw [h]) (by rw [h])

section
variable {p : Payload} {bs : List Byte} {total : List Event} {s u : State} {c c' : Cycle} (h : Sending p bs total s)
  (hc : s.cyc = some c) {es : List Event} (hu : After es s u)
include h hc hu

/-- The cycle goes on, the events having gone from what it owes to the transcript. -/
theorem Sending.goesOn (howed : byteLevel es ++ owed bs (some c') = owed bs (some c)) (hp : c'.payload = c.payload)
    (hfit : c'.phase.sentFits c'.sent p.length = true) (hfail : ∀ e, c'.phase ≠ .failed e) :
    Sending p bs total (setCycle c' u) where
  yields := (hu.yields h.yields).congr rfl rfl rfl rfl
  total := by
    have htr : u.trace = s.trace ++ es := by rw [hu]
    rw [setCycle_trace, setCycle_cyc, htr, byteLevel_append, List.append_assoc, howed, ← hc, h.total]
  cycle := by
    rintro _ ⟨⟩
    exact ⟨hp.trans (h.cycle c hc).1, hfit, hfail⟩

/-- The cycle ends, owing nothing but the events. -/
theorem Sending.ends (howed : byteLevel es = owed bs (some c)) : Sending p bs total (endCycle u) where
  yields := (hu.yields h.yields).congr rfl rfl rfl rfl
  total := by
    have htr : u.trace = s.trace ++ es := by rw [hu]
    rw [endCycle_trace, endCycle_cyc, htr, byteLevel_append, howed, owed, List.append_nil, ← hc, h.total]
  cycle := nofun

end

/-- After a data byte the cycle raises CS, or stands at the next byte where the payload has one (R114, R115). -/
theorem afterData_cases (c : Cycle) (d : Draw) (s : State) :
    ∃ ph, afterData c d s = setCycle { c with phase := ph, sent := c.sent + 1 } s ∧
      (ph = .csHigh ∨ ph = .data ∧ c.sent + 1 ≠ c.payload.length) := by
  unfold afterData
  split
  · exact ⟨.csHigh, rfl, .inl rfl⟩
  next hmore =>
    cases c.framing with
    | burst => exact ⟨.data, rfl, .inr ⟨rfl, hmore⟩⟩
    | perWrite => cases d.split <;> [exact ⟨.data, rfl, .inr ⟨rfl, hmore⟩⟩; exact ⟨.csHigh, rfl, .inl rfl⟩]

/-- A step of the open cycle, the transport taking its byte if it writes one, emits what the cycle owes next or a pin event
(R111, R114, R115). -/
theorem Sending.cycleStep {p : Payload} {bs : List Byte} {total : List Event} {s : State} (h : Sending p bs total s)
    {c : Cycle} (hc : s.cyc = some c) {d : Draw} (hok : d.transport = .ok) : Sending p bs total (cycleStep c d s) := by
  obtain ⟨hp, hfit, hfail⟩ := h.cycle c hc
  obtain ⟨fr, p', ph, n⟩ := c
  obtain rfl : p' = p := hp
  have hlen := h.yields.1
  have hcs (v : Bool) : After [.cs v] s (driveCs v s) := rfl
  have hdc (v : Bool) : After [.dc v] s (driveDc v s) := rfl
  cases ph with
  | dcCmd k => exact h.goesOn hc (hdc Config.dcCmdLevel) rfl rfl hfit nofun
  | csCmd k => exact h.goesOn hc (hcs false) rfl rfl hfit nofun
  | csCmdHigh => exact h.goesOn hc (hcs true) rfl rfl hfit nofun
  | csData => exact h.goesOn hc (hcs false) rfl rfl hfit nofun
  | failed e => exact absurd rfl (hfail e)
  | cmdByte k =>
    have hcmd : After [.cmd (Config.code k)] s (emitCommand k s) := rfl
    simp only [Machine.cycleStep, busWrite, hok]
    cases fr <;> exact h.goesOn hc hcmd rfl rfl hfit nofun
  | dcData =>
    obtain rfl : n = 0 := by simpa [Phase.sentFits] using hfit
    by_cases hl : p'.length = 0
    · have hbs : bs = [] := List.length_eq_zero_iff.1 (hlen ▸ hl)
      cases fr <;> simp only [Machine.cycleStep, hl, decide_true]
      case burst => exact h.goesOn hc (hdc Config.dcDataLevel) rfl rfl rfl nofun
      case perWrite => exact h.ends hc (hdc Config.dcDataLevel) (by simp [owed, Phase.command?, hbs])
    · have hpos : decide (0 < p'.length) = true := decide_eq_true (Nat.pos_of_ne_zero hl)
      cases fr <;> simp only [Machine.cycleStep, hl, decide_false] <;>
        exact h.goesOn hc (hdc Config.dcDataLevel) rfl rfl hpos nofun
  | data =>
    have hn : n < p'.length := of_decide_eq_true hfit
    obtain ⟨pre, b, rest, rfl, rfl⟩ := exists_cut (hlen ▸ hn)
    have hdata : After [.data b] s (emitData b s) := rfl
    rw [cycleStep_data_byte h.yields, busWrite, hok]
    obtain ⟨ph', hafter, hph⟩ := afterData_cases ⟨fr, p', .data, pre.length⟩ d (emitData b s)
    simp only [hafter]
    rcases hph with rfl | ⟨rfl, hmore⟩
    · exact h.goesOn hc hdata (by simp [owed, Phase.command?]) rfl (decide_eq_true hn) nofun
    · exact h.goesOn hc hdata (by simp [owed, Phase.command?]) rfl (decide_eq_true (Nat.lt_of_le_of_ne hn hmore)) nofun
  | csHigh =>
    have hn : n ≤ p'.length := of_decide_eq_true hfit
    by_cases hend : n = p'.length
    · simp only [Machine.cycleStep, if_pos hend]
      exact h.ends hc (hcs true) (by simp [owed, Phase.command?, hend, hlen])
    · simp only [Machine.cycleStep, if_neg hend]
      exact h.goesOn hc (hcs true) rfl rfl (decide_eq_true (Nat.lt_of_le_of_ne hn hend)) nofun

theorem Sending.runCycle {p : Payload} {bs : List Byte} {total : List Event} (ds : List Draw) :
    ∀ s : State, Sending p bs total s → (∀ d ∈ ds, d.transport = .ok) → Sending p bs total (runCycle ds s) := by
  induction ds with
  | nil => exact fun s h _ => h
  | cons d ds ih =>
    intro s h hok
    obtain ⟨hd, hds⟩ := List.forall_mem_cons.1 hok
    rw [Machine.runCycle]
    split
    · exact h
    next c hc => exact ih _ (h.cycleStep hc hd) hds

/-- A cycle at its beginning owes its command byte and its whole payload. -/
theorem Sending.beginCycle {c : PanelCommand} {p : Payload} {bs : List Byte} {s t : State} (hy : Yields s p bs)
    (h : beginCycle c p s = .next t) :
    Sending p bs (byteLevel s.trace ++ .cmd (Config.code c) :: bs.map .data) t := by
  cases hf : s.cfg.framing with
  | burst =>
    cases (beginCycle_burst hf c p).symm.trans h
    exact ⟨hy.congr rfl rfl rfl rfl, by simp [owed, Phase.command?], by rintro _ ⟨⟩; exact ⟨rfl, rfl, nofun⟩⟩
  | perWrite =>
    cases (beginCycle_perWrite hf c p).symm.trans h
    exact ⟨hy.congr rfl rfl rfl rfl, by simp [owed, Phase.command?], by rintro _ ⟨⟩; exact ⟨rfl, rfl, nofun⟩⟩

/-- Settles O28: all along the cycle the transcript and what is owed make up the same bytes, and at its end nothing is
owed. -/
theorem framingByteLevel : Obligations.FramingByteLevel := by
  intro c p s t bs ds hy hexec hok hend
  have hsending := (Sending.beginCycle hy ((exec_ofCycle c p s).symm.trans hexec)).runCycle ds t hok
  simpa [hend, owed] using hsending.total

/-! ### A transport error -/

/-- A transport error drives CS high, with its event where CS was low, and aborts the operation (R118, R250). -/
theorem transportError_eq (e : Nat) (s : State) : transportError e s = { s with
    trace := s.trace ++ (if s.csN then [] else [.cs true]), err := true, errCode := errCodeOf e
    lifecycle := .indeterminate, inflight := false, seqOp := none, seqStep := 0, csN := true, dc := Config.dcDataLevel
    cyc := none, timer := none, tainted := [] } := by
  unfold transportError
  cases h : s.csN <;> simp [abortErr, leaveOp, driveCs, h]

/-- The operation being over, the cycle that a transport error ends does not matter. -/
theorem transportError_setCycle (e : Nat) (c : Cycle) (s : State) :
    transportError e (setCycle c s) = transportError e s := by simp [transportError_eq, setCycle]

/-- A failed write of a byte whose event is `ev` ends the operation: at once where the byte has not gone out, in the step
after it where it has, whatever that step draws (R117, R118, log 13). -/
theorem busWrite_fails {s w : State} {k : Cycle} {d : Draw} {e : Nat} {sent : Bool} {ev : Event}
    {out go : State → State} (hi : s.inflight = true) (ht : s.timer = none) (hc : s.cyc = some k)
    (hd : d.transport = .err e sent)
    (he : e < 2 ^ 32) (hstep : cycleStep k d s = busWrite k d out go w) (hw : w = { s with drawn := w.drawn })
    (hout : ∀ v, out v = { v with trace := v.trace ++ [ev], panel := (out v).panel }) :
    ∃ u, (∀ d2, runDraws (d :: if sent then [d2] else []) s = .next u) ∧
      u = { s with
        trace := s.trace ++ (if sent then [ev] else []) ++ (if s.csN then [] else [.cs true]), err := true
        errCode := BitVec.ofNat 32 e, lifecycle := .indeterminate, inflight := false, seqOp := none, seqStep := 0
        csN := true, dc := u.dc, cyc := none, timer := none, tainted := [], panel := u.panel, drawn := w.drawn } := by
  rw [busWrite, hd] at hstep
  cases sent with
  | false =>
    refine ⟨transportError e w, fun d2 => (InCycle.step hi ht hc hstep (.done _)).runDraws, ?_⟩
    rw [transportError_eq, errCodeOf_of_lt he, hw]
    simp
  | true =>
    have hfailed (d2 : Draw) :
        cycleStep { k with phase := .failed e } d2 (setCycle { k with phase := .failed e } (out w)) =
          transportError e (out w) := transportError_setCycle e _ _
    refine ⟨transportError e (out w),
      fun d2 => (InCycle.step hi ht hc hstep (.step ?_ ?_ rfl (hfailed d2) (.done _))).runDraws, ?_⟩
    · rw [hout, hw]; exact hi
    · rw [hout, hw]; exact ht
    · rw [transportError_eq, errCodeOf_of_lt he, hout, hw]
      simp

/-- What comes after the steps of a cycle. -/
theorem InCycle.runDraws_append {ds es : List Draw} {s t : State} (h : InCycle ds s t) :
    Machine.runDraws (ds ++ es) s = Machine.runDraws es t := by
  induction h with
  | done => rfl
  | more hi ht hc _ ih => simp only [List.cons_append, Machine.runDraws, sequencerMove_cycle _ hi ht hc, ih]

/-- A step at the command byte's phase writes the byte to the bus (R114, R115). -/
theorem cycleStep_cmdByte {k : Cycle} {c : PanelCommand} (hph : k.phase = .cmdByte c) (d : Draw) (s : State) :
    ∃ go, cycleStep k d s = busWrite k d (emitCommand c) go s := ⟨_, by rw [cycleStep, hph]⟩

/-- A Burst cycle up to a data byte of its payload, whose bytes before it have gone out (R114). -/
theorem inCycle_burst_upTo {c : PanelCommand} {p : Payload} {pre rest : List Byte} {s : State} {ds : List Draw}
    (h : CanSend p (pre ++ rest) s) (hr : rest ≠ []) (hds : ds.length = pre.length + 3)
    (hok : ∀ d ∈ ds, d.transport = .ok) :
    InCycle ds (setCycle ⟨.burst, p, .dcCmd c, 0⟩ s) (setCycle ⟨.burst, p, .data, pre.length⟩
      (emitBytes pre (driveDc Config.dcDataLevel (emitCommand c (driveDc Config.dcCmdLevel s))))) := by
  obtain ⟨d1, d2, d3, ds, rfl⟩ : ∃ d1 d2 d3 ds', ds = d1 :: d2 :: d3 :: ds' := by
    match ds, hds with
    | d1 :: d2 :: d3 :: ds, _ => exact ⟨d1, d2, d3, ds, rfl⟩
  have h2 : d2.transport = .ok := hok d2 (by simp)
  have hp : p.length ≠ 0 := by simp [h.yields.1, hr]
  have hcmd := h.driveDc Config.dcCmdLevel
  have hdata := (hcmd.emitCommand c).driveDc Config.dcDataLevel
  refine h.next (t := setCycle ⟨.burst, p, .cmdByte c, 0⟩ (driveDc Config.dcCmdLevel s))
    (by simp [cycleStep, toPhase_eq_setCycle]) (hcmd.next
    (t := setCycle ⟨.burst, p, .dcData, 0⟩ (emitCommand c (driveDc Config.dcCmdLevel s))) ?command
    ((hcmd.emitCommand c).next (t := setCycle ⟨.burst, p, .data, 0⟩
      (driveDc Config.dcDataLevel (emitCommand c (driveDc Config.dcCmdLevel s)))) ?level ?payload))
  case command => simp [cycleStep, busWrite, h2, toPhase_eq_setCycle]
  case level => simp [cycleStep, hp, toPhase_eq_setCycle]
  case payload =>
    exact inCycle_bytes hr pre [] _ ds hdata (by simpa using hds) fun d hd => ⟨hok d (by simp [hd]), nofun⟩

/-- Settles O29: at any byte the write fails by the same lemma; and a Burst cycle's steps before index `k` are those of an
undisturbed one. -/
theorem transportErrorInCycle : Obligations.TransportErrorInCycle := by
  refine ⟨fun s k d e sent ev hi ht hc hd he hev => ?anyByte,
    fun c p s bs ds d e k sent hf hi ht _ hy hk hds hok hd he => ?burst⟩
  case anyByte =>
    obtain ⟨out, go, w, hstep, hw, hout⟩ : ∃ (out go : State → State) (w : State),
        cycleStep k d s = busWrite k d out go w ∧ w = { s with drawn := w.drawn } ∧
        ∀ v, out v = { v with trace := v.trace ++ [ev], panel := (out v).panel } := by
      rcases hev with ⟨c, hph, rfl⟩ | ⟨b, hph, hb, rfl⟩
      · obtain ⟨go, hstep⟩ := cycleStep_cmdByte hph d s
        exact ⟨_, go, s, hstep, rfl, fun _ => rfl⟩
      · exact ⟨_, _, _, cycleStep_data hph hb, noteByte_eq .., fun _ => rfl⟩
    obtain ⟨u, hrun, hu⟩ := busWrite_fails hi ht hc hd he hstep hw hout
    refine ⟨u, hrun, ?_, fun d' => sequencerMove_still d' (.inl (by rw [hu]))⟩
    rw [hu]
  case burst =>
    rw [exec_ofCycle, beginCycle_burst hf]
    have h : CanSend p bs (driveCs false s) := CanSend.driveCs ⟨hi, ht, hy⟩ false
    cases k with
    | zero =>
      obtain ⟨d1, rfl⟩ := List.length_eq_one_iff.1 hds
      let s1 := setCycle ⟨.burst, p, .cmdByte c, 0⟩ (driveDc Config.dcCmdLevel (driveCs false s))
      have h1 : CanSend p bs s1 := (h.driveDc _).setCycle _
      have hhead : InCycle [d1] (setCycle ⟨.burst, p, .dcCmd c, 0⟩ (driveCs false s)) s1 :=
        h.next (by simp [s1, cycleStep, toPhase_eq_setCycle]) (.done s1)
      obtain ⟨go, hstep⟩ := cycleStep_cmdByte (k := ⟨.burst, p, .cmdByte c, 0⟩) rfl d s1
      obtain ⟨u, hrun, hu⟩ := busWrite_fails h1.inflight h1.timer rfl hd he hstep rfl fun _ => rfl
      refine ⟨_, u, rfl, fun d2 => hhead.runDraws_append.trans (hrun d2), hu.trans ?_⟩
      cases sent <;> simp [s1, setCycle, driveDc, driveCs, Config.dcCmdLevel]
    | succ k =>
      obtain ⟨pre, b, rest, rfl, rfl⟩ := exists_cut hk
      let s1 := setCycle ⟨.burst, p, .data, pre.length⟩ (emitBytes pre (driveDc Config.dcDataLevel
        (emitCommand c (driveDc Config.dcCmdLevel (driveCs false s)))))
      have h1 : CanSend p (pre ++ b :: rest) s1 :=
        ((((h.driveDc _).emitCommand c).driveDc _).emitBytes pre).setCycle _
      have hhead : InCycle ds (setCycle ⟨.burst, p, .dcCmd c, 0⟩ (driveCs false s)) s1 :=
        inCycle_burst_upTo h (List.cons_ne_nil b rest) hds hok
      have hstep := cycleStep_data_byte (fr := .burst) h1.yields d
      obtain ⟨u, hrun, hu⟩ := busWrite_fails h1.inflight h1.timer rfl hd he hstep rfl fun _ => rfl
      refine ⟨_, u, rfl, fun d2 => hhead.runDraws_append.trans (hrun d2), hu.trans ?_⟩
      cases sent <;>
        simp [s1, setCycle, emitBytes, emitCommand, driveDc, driveCs, Config.dcCmdLevel, Config.dcDataLevel]

end Sys2Proof.Machine

/-! The proofs for the statements of 41_busy_sync.md: `WaitIdle()` by the pin (R131, R133) and by status query (R134), and
the places of the step lists where it stands (R139). -/

namespace Sys2Proof.Machine

/-! ### Steps of a list, run where SEQ stands -/

/-- SEQ stands at step `k` of `op`'s list `l`, between cycles and delays, whatever the platform and the pins. -/
structure StandsAt (op : Instr) (l : List SeqStep) (k : Nat) (s : State) : Prop extends Ready s where
  seqOp : s.seqOp = some op
  seqStep : s.seqStep = k
  list : stepList op s = l

section
variable {op : Instr} {l : List SeqStep} {k : Nat} {s : State} (h : StandsAt op l k s)
include h

/-- Moving SEQ, emitting events and driving the panel's pins leaves SEQ in the same list. -/
theorem StandsAt.moved (k' : Nat) (tr : List Event) (cs dc : Bool) (r : PanelRecord) :
    StandsAt op l k' { s with seqStep := k', trace := tr, csN := cs, dc := dc, panel := r } where
  inflight := h.inflight
  timer := h.timer
  cyc := h.cyc
  seqOp := h.seqOp
  seqStep := rfl
  list := (stepList_congr rfl rfl rfl (.inl rfl)).trans h.list

theorem StandsAt.seqFetch {st : SeqStep} (hk : l[k]? = some st) : seqFetch s = some st := by
  simp only [Machine.seqFetch, h.seqOp, h.list, h.seqStep, hk]

theorem StandsAt.sequencerMove {st : SeqStep} (hk : l[k]? = some st) (d : Draw) :
    sequencerMove d s = runSeqStep st d s :=
  sequencerMove_fetch d h.inflight h.timer h.cyc (h.seqFetch hk)

/-- A busy sample goes on to the poll (R131). -/
theorem StandsAt.busySample (hk : l[k]? = some .sample) :
    Machine.sequencerMove busyDraw s = .next { s with seqStep := k + 1, trace := s.trace ++ [.sample false] } := by
  rw [h.sequencerMove hk, ← h.seqStep]
  rfl

/-- An idle sample jumps past the poll (R131). -/
theorem StandsAt.idleSample (hk : l[k]? = some .sample) :
    Machine.sequencerMove quietDraw s = .next { s with seqStep := k + 2, trace := s.trace ++ [.sample true] } := by
  rw [h.sequencerMove hk, ← h.seqStep]
  rfl

/-- The poll's delay, ended by the timer, is back at the loop's head (R131, R134, R136). -/
theorem StandsAt.pollTurn {back : Nat} (hk : l[k]? = some (.poll back)) (d : Draw) :
    runMoves [.sequencer d, .timer] s = .next { s with seqStep := k - back, trace := s.trace ++ [.delay 1000] } := by
  simp only [runMoves, applyMove, h.sequencerMove hk, runSeqStep, ← h.seqStep]
  simp [timerMove, pollStep, goBack, startDelay, Config.tPoll, h.timer]

/-- A StatusRead returns past the poll on an idle bit, and goes on to it on a busy one (R134, log 10). -/
theorem StandsAt.statusRead (hk : l[k]? = some .statusRead) (d : Draw) :
    Machine.sequencerMove d s = .next { s with
      seqStep := if statusIdle d.status then k + 2 else k + 1, trace := s.trace ++ [.statusRead d.status] } := by
  rw [h.sequencerMove hk, ← h.seqStep]
  simp only [runSeqStep, statusReadStep]
  split <;> rfl

/-- A whole Burst cycle of the list: its fetch, then the framer's chain of R114. -/
theorem StandsAt.runDraws_cycle {c : PanelCommand} {p : Payload} {bs : List Byte} {ds : List Draw}
    (hk : l[k]? = some (.cycle (.ofCycle c p))) (hb : s.cfg.framing = .burst) (hy : Yields s p bs)
    (hds : ds.length = bs.length + 5) (hok : ∀ d ∈ ds, d.transport = .ok) : runDraws ds s = .next (doCycle c bs s) := by
  obtain ⟨d, ds, rfl⟩ := List.exists_cons_of_length_eq_add_one hds
  have hbegin : Machine.sequencerMove d s = .next (setCycle ⟨.burst, p, .dcCmd c, 0⟩ (driveCs false s)) :=
    (h.sequencerMove hk d).trans ((exec_ofCycle c p s).trans (beginCycle_burst hb c p))
  have hchain := inCycle_burst (c := c) (s := setCycle ⟨.burst, p, .dcCmd c, 0⟩ (driveCs false s)) h.inflight h.timer rfl
    (hy.congr rfl rfl rfl rfl) (Nat.succ.inj hds) fun d hd => hok d (List.mem_cons_of_mem _ hd)
  simp only [runDraws, hbegin, hchain.runDraws]
  simp [endCycle, driveCs, driveDc, emitBytes, emitCommand, setCycle, doCycle, burstEvents, PanelRecord.afterCycle]

end

/-- Runs of the sequencer alone are runs of several agents. -/
theorem runMoves_sequencer (ds : List Draw) (s : State) : runMoves (ds.map .sequencer) s = runDraws ds s := by
  induction ds generalizing s with
  | nil => rfl
  | cons d ds ih =>
    simp only [List.map_cons, runMoves, runDraws, applyMove]
    cases sequencerMove d s <;> simp [ih]

/-! ### The wait by the pin -/

section
variable {op : Instr} {l : List SeqStep} {k : Nat} {s : State} (h : StandsAt op l k s) (h0 : l[k]? = some .sample)
  (h1 : l[k + 1]? = some (.poll 1))
include h h0 h1

/-- One busy turn of the loop ends at its head again, with a sample and a delay in the transcript (R131). -/
theorem StandsAt.busyTurn : runMoves [.sequencer busyDraw, .sequencer quietDraw, .timer] s =
    .next { s with trace := s.trace ++ [.sample false, .delay 1000] } := by
  have hpoll := (h.moved (k + 1) (s.trace ++ [.sample false]) s.csN s.dc s.panel).pollTurn h1 quietDraw
  calc runMoves [.sequencer busyDraw, .sequencer quietDraw, .timer] s
    _ = runMoves [.sequencer quietDraw, .timer] { s with seqStep := k + 1, trace := s.trace ++ [.sample false] } := by
      rw [runMoves]
      simp only [applyMove, h.busySample h0]
    _ = _ := by rw [hpoll]; simp [h.seqStep]

theorem StandsAt.busyTurns (n : Nat) : runMoves (busyMoves n) s = .next { s with
    trace := s.trace ++ (List.replicate n [Event.sample false, Event.delay 1000]).flatten } := by
  induction n generalizing s with
  | zero => simp [busyMoves, runMoves]
  | succ n ih =>
    have hhead := h.moved s.seqStep (s.trace ++ [.sample false, .delay 1000]) s.csN s.dc s.panel
    rw [busyMoves, runMoves_append (h.busyTurn h0 h1), ih (h.seqStep ▸ hhead)]
    simp [List.replicate_succ]

end

/-- Settles O33: by induction on the busy turns, each of which ends at the loop's head again. -/
theorem waitNeverEnds : Obligations.WaitNeverEnds := by
  intro s op n hi ht hc hop h0 h1
  exact StandsAt.busyTurns ⟨⟨hi, ht, hc⟩, hop, rfl, rfl⟩ h0 h1 n

/-- Settles O32: the busy turns, then the idle sample at the loop's head. -/
theorem waitIdlePin : Obligations.WaitIdlePin := by
  intro s op n hi ht hc hop h0 h1
  have h : StandsAt op (stepList op s) s.seqStep s := ⟨⟨hi, ht, hc⟩, hop, rfl, rfl⟩
  have hhead := h.moved s.seqStep
    (s.trace ++ (List.replicate n [Event.sample false, Event.delay 1000]).flatten) s.csN s.dc s.panel
  rw [runMoves_append (h.busyTurns h0 h1 n)]
  simp only [runMoves, applyMove, hhead.idleSample h0]

/-! ### The wait by status query -/

/-- A whole Burst cycle leaves SEQ at the next step of its list. -/
theorem StandsAt.doCycle {op : Instr} {l : List SeqStep} {k : Nat} {s : State} (h : StandsAt op l k s)
    (c : PanelCommand) (bs : List Byte) : StandsAt op l (k + 1) (doCycle c bs s) where
  inflight := h.inflight
  timer := h.timer
  cyc := rfl
  seqOp := h.seqOp
  seqStep := by rw [doCycle_seqStep, h.seqStep]
  list := (stepList_congr rfl rfl rfl (.inl rfl)).trans h.list

/-- Settles O34: the GetStatus cycle, the StatusRead, and on a busy bit the poll's turn. -/
theorem statusQueryWait : Obligations.StatusQueryWait := by
  intro s op b hi ht hc hf hop h0 h1 h2
  have h : StandsAt op (stepList op s) s.seqStep s := ⟨⟨hi, ht, hc⟩, hop, rfl, rfl⟩
  have hcycle : runMoves (List.replicate 5 (.sequencer quietDraw)) s = .next (doCycle .getStatus [] s) := by
    rw [← List.map_replicate, runMoves_sequencer]
    exact h.runDraws_cycle h0 hf (yields_bytes s []) rfl fun d hd => List.eq_of_mem_replicate hd ▸ rfl
  have hat := h.doCycle .getStatus []
  have hread := hat.statusRead h1 { quietDraw with status := b }
  refine ⟨fun hidle => ?idle, fun hbusy => ?busy⟩
  case idle =>
    have hst : statusIdle b = true := by simpa [statusIdle] using hidle
    rw [← runMoves_sequencer, List.map_append, List.map_replicate, runMoves_append hcycle]
    simp only [List.map, runMoves, applyMove, hread, hst]
    simp [hc, Config.dcDataLevel]
  case busy =>
    have hst : statusIdle b = false := by simpa [statusIdle] using hbusy
    have hpoll := (hat.moved (s.seqStep + 2) (s.trace ++ burstEvents .getStatus [] ++ [.statusRead b]) true
      true (s.panel.afterCycle .getStatus [])).pollTurn h2 quietDraw
    rw [runMoves_append hcycle, runMoves]
    simp only [applyMove, hread, hst]
    exact hpoll.trans (by simp [hc])

/-! ### Where the waits stand -/

/-- The step a wait begins with (R131, R134). -/
def waitHead : BusySource → SeqStep
  | .pin => .sample
  | .statusQuery => .cycle (.getStatus (.bytes []))

theorem head?_waitIdleSteps (src : BusySource) : (waitIdleSteps src).head? = some (waitHead src) := by cases src <;> rfl

theorem count_waitHead_waitIdleSteps (src : BusySource) : (waitIdleSteps src).count (waitHead src) = 1 := by
  cases src <;> rfl

/-- Inside a wait its first step stands only at its head. -/
theorem waitHead_at_waitIdleSteps {src : BusySource} {k : Nat} (h : (waitIdleSteps src)[k]? = some (waitHead src)) :
    k = 0 := by
  have htail : waitHead src ∉ (waitIdleSteps src).tail := by cases src <;> simp [waitHead, waitIdleSteps]
  cases k with
  | zero => rfl
  | succ k => exact absurd (List.mem_of_getElem? ((List.getElem?_tail ..).trans h)) htail

/-- After steps that wait nowhere, the next wait is the first or stands in what follows it. -/
theorem waitHead_at {src : BusySource} {pre post : List SeqStep} (hpre : waitHead src ∉ pre) {k : Nat}
    (h : (pre ++ (waitIdleSteps src ++ post))[k]? = some (waitHead src)) :
    k = pre.length ∨
      ∃ j, k = pre.length + ((waitIdleSteps src).length + j) ∧ post[j]? = some (waitHead src) := by
  rcases lt_or_ge k pre.length with hk | hk
  · rw [List.getElem?_append_left hk] at h
    exact absurd (List.mem_of_getElem? h) hpre
  obtain ⟨k, rfl⟩ := Nat.exists_eq_add_of_le hk
  rw [List.getElem?_append_right hk, Nat.add_sub_cancel_left] at h
  rcases lt_or_ge k (waitIdleSteps src).length with hk | hk
  · rw [List.getElem?_append_left hk] at h
    exact .inl (by rw [waitHead_at_waitIdleSteps h, Nat.add_zero])
  obtain ⟨k, rfl⟩ := Nat.exists_eq_add_of_le hk
  rw [List.getElem?_append_right hk, Nat.add_sub_cancel_left] at h
  exact .inr ⟨k, rfl, h⟩

/-- A list with one wait, at a known place. -/
theorem waits_once {src : BusySource} {pre post : List SeqStep} (hpre : waitHead src ∉ pre)
    (hpost : waitHead src ∉ post) :
    (pre ++ (waitIdleSteps src ++ post)).count (waitHead src) = 1 ∧
    ∀ k, (pre ++ (waitIdleSteps src ++ post))[k]? = some (waitHead src) → k = pre.length := by
  refine ⟨?_, fun k hk => (waitHead_at hpre hk).resolve_right fun ⟨j, _, hj⟩ => hpost (List.mem_of_getElem? hj)⟩
  rw [List.count_append, List.count_append, List.count_eq_zero_of_not_mem hpre, List.count_eq_zero_of_not_mem hpost,
    count_waitHead_waitIdleSteps]

/-- A list with two waits: the first at a known place, the second with a known rest. -/
theorem waits_twice {src : BusySource} {pre mid post : List SeqStep} (hpre : waitHead src ∉ pre)
    (hmid : waitHead src ∉ mid) (hpost : waitHead src ∉ post) :
    (pre ++ (waitIdleSteps src ++ (mid ++ (waitIdleSteps src ++ post)))).count (waitHead src) = 2 ∧
    ∀ k, (pre ++ (waitIdleSteps src ++ (mid ++ (waitIdleSteps src ++ post))))[k]? = some (waitHead src) →
      k = pre.length ∨ pre.length ≤ k ∧
        (pre ++ (waitIdleSteps src ++ (mid ++ (waitIdleSteps src ++ post)))).drop k = waitIdleSteps src ++ post := by
  obtain ⟨hcount, hplace⟩ := waits_once hmid hpost
  refine ⟨?_, fun k hk => (waitHead_at hpre hk).imp_right fun ⟨j, hkj, hj⟩ => ⟨by omega, ?_⟩⟩
  · rw [List.count_append, List.count_append, hcount, List.count_eq_zero_of_not_mem hpre,
      count_waitHead_waitIdleSteps]
  · simp only [hkj, hplace j hj, ← List.drop_drop, List.drop_left]

/-- No wait begins with this step, by the pin or by status query. -/
def SeqStep.beginsNoWait : SeqStep → Bool
  | .sample | .cycle (.getStatus _) => false
  | _ => true

theorem waitHead_notMem {l : List SeqStep} (src : BusySource) (h : l.all SeqStep.beginsNoWait = true) :
    waitHead src ∉ l := by
  intro hmem
  have := List.all_eq_true.1 h _ hmem
  cases src <;> cases this

theorem loadLuts_beginsNoWait (sel : Option Family) : (loadLuts sel).all SeqStep.beginsNoWait = true := by
  unfold loadLuts
  cases fam sel <;> rfl

/-- INIT waits twice: after PowerOn, and last (R146). -/
theorem initSteps_waits (src : BusySource) : ∃ pre mid,
    initSteps src = pre ++ [.cycle (.powerOn (.bytes []))] ++
      (waitIdleSteps src ++ (mid ++ (waitIdleSteps src ++ [.finishInit]))) ∧
    (pre ++ [.cycle (.powerOn (.bytes []))]).all SeqStep.beginsNoWait = true ∧
    mid.all SeqStep.beginsNoWait = true := by
  refine ⟨(initSteps src).take 6, ((initSteps src).drop (7 + (waitIdleSteps src).length)).take 4, ?_⟩
  cases src <;> exact ⟨rfl, rfl, rfl⟩

/-- `Trigger()` waits after its settle delay (R190). -/
theorem triggerSteps_waits (src : BusySource) {body : List SeqStep} (h : body.all SeqStep.beginsNoWait = true) :
    ∃ pre, body ++ triggerSteps src ++ [.finish] =
        pre ++ [.delay Config.tSettle] ++ (waitIdleSteps src ++ [.finish]) ∧
      (pre ++ [.delay Config.tSettle]).all SeqStep.beginsNoWait = true :=
  ⟨body ++ [.cycle (.displayRefresh (.bytes []))], by simp [triggerSteps], by simp [h, SeqStep.beginsNoWait]⟩

/-- The waits of every operation's list (R139): INIT's two, `Trigger()`'s, WAIT_UNTIL_IDLE's own, and no others. -/
theorem stepList_waits {op : Instr} (s : State) (h : isHostOp op = true) :
    (op ∈ [.init, .wakeUp] ∧ stepList op s = initSteps s.cfg.busySource) ∨
    (op ∉ [.init, .wakeUp] ∧ op ∈ [.displayFrame, .updateAndDisplayFrame, .clearFrame] ∧
      ∃ body, body.all SeqStep.beginsNoWait = true ∧
        stepList op s = body ++ triggerSteps s.cfg.busySource ++ [.finish]) ∨
    (op = .waitUntilIdle ∧ stepList op s = waitIdleSteps s.cfg.busySource ++ [.finish]) ∨
    (op ∉ [.init, .wakeUp] ∧ op ∉ [.displayFrame, .updateAndDisplayFrame, .clearFrame, .waitUntilIdle] ∧
      (stepList op s).all SeqStep.beginsNoWait = true) := by
  cases op with
  | init | wakeUp => exact .inl ⟨by simp, rfl⟩
  | displayFrame => exact .inr (.inl ⟨by simp, by simp, _, loadLuts_beginsNoWait (some s.mode), rfl⟩)
  | updateAndDisplayFrame => exact .inr (.inl ⟨by simp, by simp, _, rfl, rfl⟩)
  | clearFrame => exact .inr (.inl ⟨by simp, by simp, _, rfl, rfl⟩)
  | waitUntilIdle => exact .inr (.inr (.inl ⟨rfl, rfl⟩))
  | setLut sel => cases sel <;> exact .inr (.inr (.inr ⟨by simp, by simp, rfl⟩))
  | sleep | updateFrame | updatePartialFrame | setBackground _ | getBackground | getWidth | getHeight =>
    exact .inr (.inr (.inr ⟨by simp, by simp, rfl⟩))
  | _ => cases h

/-- Settles O35: the waits of the operation's list, counted and placed by where the steps they begin with can stand. -/
theorem waitCallSites : Obligations.WaitCallSites := by
  intro op s h hop hhead
  obtain rfl : waitHead s.cfg.busySource = h := Option.some.inj ((head?_waitIdleSteps _).symm.trans hhead)
  have hnot {l : List SeqStep} := waitHead_notMem (l := l) s.cfg.busySource
  rcases stepList_waits s hop with ⟨hinit, hl⟩ | ⟨hinit, htrig, body, hbody, hl⟩ | ⟨rfl, hl⟩ | ⟨hinit, hwait, hfree⟩
  · obtain ⟨pre, mid, hsteps, hpre, hmid⟩ := initSteps_waits s.cfg.busySource
    obtain ⟨hcount, hplace⟩ := waits_twice (post := [.finishInit]) (hnot hpre) (hnot hmid) (hnot rfl)
    rw [hl, hsteps, if_pos hinit]
    refine ⟨hcount, fun k hk => ?_⟩
    rcases hplace k hk with rfl | ⟨hle, hdrop⟩
    · exact ⟨⟨_, List.drop_left⟩, .inl ⟨hinit, by simp, .inl (by simp)⟩⟩
    · exact ⟨⟨_, hdrop⟩, .inl ⟨hinit, by simp at hle; omega, .inr hdrop⟩⟩
  · obtain ⟨pre, hsteps, hpre⟩ := triggerSteps_waits s.cfg.busySource hbody
    obtain ⟨hcount, hplace⟩ := waits_once (post := [.finish]) (hnot hpre) (hnot rfl)
    rw [hl, hsteps, if_neg hinit, if_pos (by simp only [List.mem_cons] at htrig ⊢; tauto)]
    refine ⟨hcount, fun k hk => ?_⟩
    obtain rfl := hplace k hk
    exact ⟨⟨_, List.drop_left⟩, .inr (.inl ⟨htrig, by simp, by simp⟩)⟩
  · obtain ⟨hcount, hplace⟩ := waits_once (pre := []) (post := [.finish]) (hnot rfl) (hnot rfl)
    rw [hl, if_neg (by simp), if_pos (by simp)]
    refine ⟨hcount, fun k hk => ?_⟩
    obtain rfl := hplace k hk
    exact ⟨⟨_, rfl⟩, .inr (.inr ⟨rfl, rfl⟩)⟩
  · rw [if_neg hinit, if_neg hwait]
    exact ⟨List.count_eq_zero_of_not_mem (hnot hfree), fun k hk => absurd (List.mem_of_getElem? hk) (hnot hfree)⟩

end Sys2Proof.Machine

/-! The proof for the statement of 42_init.md: INIT's list (R146), which is WAKE_UP's too (R156), run link by link to its
completion (R154). -/

namespace Sys2Proof.Machine

/-! ### The parts of INIT's list -/

/-- INIT's cycles up to PowerOn, with their bytes (R148 to R150). -/
def powerUpRow : List (PanelCommand × List Byte) :=
  [(.powerSetting, Config.pwrPayload.toList), (.boosterSoftStart, Config.boostPayload.toList), (.powerOn, [])]

/-- INIT's cycles after PowerOn, with their bytes (R151 to R153). -/
def panelSetupRow : List (PanelCommand × List Byte) :=
  [(.panelSetting, Config.psrPayload.toList), (.pllControl, Config.pllPayload.toList),
   (.resolutionSetting, resolutionBytes), (.vcmDcSetting, Config.vdcPayload.toList)]

/-- The reset pulse of INIT (R147). -/
def resetPulseSteps : List SeqStep :=
  [.rst false, .delay Config.tRstLow, .rst true, .delay Config.tRstHigh]

/-- The steps of a row of cycles whose payloads are constants. -/
def constantCycles (cs : List (PanelCommand × List Byte)) : List SeqStep :=
  cs.map fun c => .cycle (.ofCycle c.1 (.bytes c.2))

/-- INIT's transcript, part by part (R146). -/
theorem initEvents_eq (n m : Nat) : initEvents n m =
    [.rst false, .delay Config.tRstLow, .rst true, .delay Config.tRstHigh] ++
      powerUpRow.flatMap (fun c => burstEvents c.1 c.2) ++ waitEvents n ++
      panelSetupRow.flatMap (fun c => burstEvents c.1 c.2) ++ waitEvents m := by
  simp [initEvents, powerUpRow, panelSetupRow, resolutionBytes_eq]

/-! ### The links of its run -/

/-- The state after the reset pulse: RST_N is high again. -/
def doResetPulse (s : State) : State :=
  doDelay Config.tRstHigh (advance 1 (driveRst true (doDelay Config.tRstLow (advance 1 (driveRst false s)))))

section
variable {op : Instr} {l rest : List SeqStep} {k : Nat} {s : State} (h : On op l k s)
include h

/-- A row of cycles whose payloads are constants. -/
theorem On.constantCycles (cs : List (PanelCommand × List Byte)) (hl : l.drop k = constantCycles cs ++ rest) :
    LeadsTo s (doCycles cs s) ∧ On op l (k + cs.length) (doCycles cs s) := by
  have hy : ∀ c ∈ cs.map (fun c => (c.1, Payload.bytes c.2, c.2)), Yields s c.2.1 c.2.2 :=
    List.forall_mem_map.2 fun c _ => yields_bytes s c.2
  simpa [Function.comp_def] using h.cycles _ (by simpa [Machine.constantCycles, Function.comp_def] using hl) hy

/-- The reset pulse, its two delays ended by the timer (R147). -/
theorem On.resetPulse (hl : l.drop k = resetPulseSteps ++ rest) :
    LeadsTo s (doResetPulse s) ∧ On op l (k + 4) (doResetPulse s) := by
  have hat (j : Nat) : l[k + j]? = (resetPulseSteps ++ rest)[j]? := by rw [← hl, List.getElem?_drop]
  obtain ⟨run1, on1⟩ := h.rst (hat 0)
  obtain ⟨run2, on2⟩ := on1.delay (hat 1)
  obtain ⟨run3, on3⟩ := on2.rst (hat 2)
  obtain ⟨run4, on4⟩ := on3.delay (hat 3)
  exact ⟨run1.trans (run2.trans (run3.trans run4)), on4⟩

end

/-- The state after the whole list of INIT, with `n` and `m` busy samples in its two waits. -/
def doInit (n m : Nat) (s : State) : State :=
  finishInitStep (doWait m (doCycles panelSetupRow (doWait n (doCycles powerUpRow (doResetPulse s)))))

/-- INIT's list runs from its head to its completion: the pulse, the cycles up to PowerOn, a wait, the other cycles, a
wait (R146). -/
theorem On.init {op : Instr} {s : State} (h : On op (initSteps .pin) 0 s) (n m : Nat) : LeadsTo s (doInit n m s) := by
  obtain ⟨pulse, on4⟩ := h.resetPulse rfl
  obtain ⟨powerUp, on7⟩ := on4.constantCycles powerUpRow rfl
  obtain ⟨wait1, on9⟩ := on7.wait n rfl rfl
  obtain ⟨setup, on13⟩ := on9.constantCycles panelSetupRow rfl
  obtain ⟨wait2, on15⟩ := on13.wait m rfl rfl
  exact pulse.trans (powerUp.trans (wait1.trans (setup.trans (wait2.trans (on15.last rfl rfl)))))

/-- Run from an idle block, INIT's list leaves the latch, ERR, LIFECYCLE, the transcript and the panel's record as R146 and
R154 say, and every other field as it was. -/
theorem doInit_startOp {s : State} (h : Idle s) (i : Instr) (n m : Nat) : doInit n m (startOp i s) = { s with
    latched := s.args, err := false, lifecycle := .ready, trace := s.trace ++ initEvents n m
    panel := (s.panel.afterCycles powerUpRow).afterCycles panelSetupRow } := by
  obtain ⟨hop, hstep, hinfl, hcyc, htimer, htaint, hcs, hdc, hrst, -⟩ := h
  simp [doInit, finishInitStep, leaveOp, doWait, doCycles, doResetPulse, doDelay, advance, driveRst, startOp, initEvents_eq,
    hop, hstep, hinfl, hcyc, htimer, htaint, hcs, hdc, hrst]

/-- Settles O36: both operations have INIT's list and are accepted in every LIFECYCLE state; the list runs link by link. -/
theorem initRuns : Obligations.InitRuns := by
  intro i s n m hi hinv hacc ⟨hburst, hpin⟩
  have hidle := hinv.idle_fields hacc
  have hhost : i.cycle? = none ∧ illegalOp i = false ∧ needsReady i = false ∧
      stepList i (startOp i s) = initSteps s.cfg.busySource := by
    rcases List.mem_pair.1 hi with rfl | rfl <;> exact ⟨rfl, rfl, rfl, rfl⟩
  obtain ⟨hctrl, hlegal, hany, hlist⟩ := hhost
  refine ⟨exec_accepts hctrl hacc hlegal (by simp [hany]),
    (s.panel.afterCycles powerUpRow).afterCycles panelSetupRow, ?_⟩
  rw [← doInit_startOp hidle i n m]
  exact (On.start hidle hburst (hpin ▸ hlist)).init n m

end Sys2Proof.Machine

/-! The proof for the statement of 43_lut.md: `LoadLuts` as one link of any operation's run (R162, R163), and SET_LUT, whose
list is that link and its end (R167). -/

namespace Sys2Proof.Machine

/-- `LoadLuts` for a family, where SEQ stands at its first cycle (R162, R163). -/
theorem On.luts {op : Instr} {l rest : List SeqStep} {k : Nat} {s : State} (h : On op l k s) {f : Family}
    (hl : l.drop k = loadLuts (some f) ++ rest) :
    LeadsTo s (doCycles (lutBytes f) s) ∧ On op l (k + (lutBytes f).length) (doCycles (lutBytes f) s) := by
  rw [← lutRow_steps] at hl
  simpa [← lutRow_bytes] using h.cycles (lutRow f) hl (lutRow_yields f s)

/-- A list that is `LoadLuts` and the end runs to its end. -/
theorem On.lutsFinish {op : Instr} {s : State} {f : Family} (h : On op (loadLuts (some f) ++ [.finish]) 0 s) :
    LeadsTo s (leaveOp (doCycles (lutBytes f) s)) := by
  obtain ⟨luts, onEnd⟩ := h.luts rfl
  have hfinish : (loadLuts (some f) ++ [.finish])[0 + (lutBytes f).length]? = some .finish := by cases f <;> rfl
  exact luts.trans (onEnd.last hfinish rfl)

/-- Begun on an idle block with ERR clear and left at its end, a row of cycles changes the latch, the transcript and the
panel's record, and no other field. -/
theorem leaveOp_doCycles_startOp {s : State} (h : Idle s) (herr : s.err = false) (i : Instr)
    (cs : List (PanelCommand × List Byte)) : leaveOp (doCycles cs (startOp i s)) = { s with
      latched := s.args, trace := s.trace ++ cs.flatMap (fun c => burstEvents c.1 c.2)
      panel := s.panel.afterCycles cs } := by
  obtain ⟨hop, hstep, hinfl, hcyc, htimer, htaint, hcs, hdc, -⟩ := h
  simp [leaveOp, doCycles, startOp, hop, hstep, hinfl, hcyc, htimer, htaint, hcs, hdc, herr]

/-- Settles O42: each legal selection is accepted and its list is `LoadLuts` of its family (R161, R167), which runs as one
row of cycles. -/
theorem setLutRuns : Obligations.SetLutRuns := by
  intro sel f s hsel hinv hacc ⟨hburst, _⟩ hready
  have hidle := hinv.idle_fields hacc
  have hfamily : illegalOp (.setLut sel) = false ∧
      stepList (.setLut sel) (startOp (.setLut sel) s) = loadLuts (some f) ++ [.finish] := by
    simp only [List.mem_cons, Prod.mk.injEq, List.not_mem_nil, or_false] at hsel
    rcases hsel with ⟨rfl, rfl⟩ | ⟨rfl, rfl⟩ | ⟨rfl, rfl⟩ <;> exact ⟨rfl, rfl⟩
  obtain ⟨hlegal, hlist⟩ := hfamily
  refine ⟨exec_accepts rfl hacc hlegal fun _ => hready, s.panel.afterCycles (lutBytes f), ?_⟩
  have hrun := (On.start hidle hburst hlist).lutsFinish
  rwa [leaveOp_doCycles_startOp hidle (hinv.err_of_ready hready)] at hrun

end Sys2Proof.Machine

/-! The proofs for the statements of 44_refresh.md: the operations of the refresh state machine run link by link to their
ends (R177 to R199), the places of their lists where a refresh is triggered or the panel powered on (R190, R197, R150), and
what is sent of partial mode and of VCOM-DC (R188, R168). -/

namespace Sys2Proof.Machine

/-! ### The links that end a refresh operation -/

/-- The state of an accepted operation that has written MODE and stands at step `k` of its list. -/
def startedAt (i : Instr) (f : Family) (k : Nat) (s : State) : State :=
  { startOp i s with mode := f, seqStep := k }

/-- Acceptance itself writes no MODE and stands at the head of the list. -/
theorem startOp_eq_startedAt (i : Instr) (s : State) : startOp i s = startedAt i s.mode 0 s := rfl

/-- The state after `Trigger()` with `n` busy samples (R190). -/
def doTrigger (n : Nat) (s : State) : State :=
  doWait n (doDelay Config.tSettle (doCycles [(.displayRefresh, [])] s))

section
variable {op : Instr} {l : List SeqStep} {k : Nat} {s : State} (h : On op l k s)
  {cs : List (PanelCommand × Payload × List Byte)} (hy : ∀ c ∈ cs, Yields s c.2.1 c.2.2)
include h hy

/-- A row of cycles, then the end of the operation. -/
theorem On.cyclesFinish (hl : l.drop k = cs.map (fun c => .cycle (.ofCycle c.1 c.2.1)) ++ [.finish]) :
    LeadsTo s (leaveOp (doCycles (cs.map fun c => (c.1, c.2.2)) s)) := by
  obtain ⟨row, onEnd⟩ := h.cycles cs hl hy
  have hfinish : l[k + cs.length]? = some .finish := by
    rw [← List.getElem?_drop, hl, List.getElem?_append_right (by simp)]
    simp
  exact row.trans (onEnd.last hfinish rfl)

/-- A row of cycles, then `Trigger()` and the end of the operation (R190). -/
theorem On.cyclesTrigger
    (hl : l.drop k = cs.map (fun c => .cycle (.ofCycle c.1 c.2.1)) ++ (triggerSteps .pin ++ [.finish])) (n : Nat) :
    LeadsTo s (leaveOp (doTrigger n (doCycles (cs.map fun c => (c.1, c.2.2)) s))) := by
  obtain ⟨row, onRefresh⟩ := h.cycles cs hl hy
  have hrest : l.drop (k + cs.length) = triggerSteps .pin ++ [.finish] := by
    rw [← List.drop_drop, hl]
    exact List.drop_left' (by simp)
  have hat (j : Nat) : l[k + cs.length + j]? = (triggerSteps .pin ++ [.finish])[j]? := by
    rw [← hrest, List.getElem?_drop]
  obtain ⟨refresh, onDelay⟩ := onRefresh.cycles [(.displayRefresh, .bytes [], [])] hrest (by simp [yields_bytes])
  obtain ⟨delay, onWait⟩ := onDelay.delay (hat 1)
  obtain ⟨wait, onEnd⟩ := onWait.wait n (hat 2) (hat 3)
  exact row.trans (refresh.trans (delay.trans (wait.trans (onEnd.last (hat 4) rfl))))

end

/-- Begun on an idle block with ERR clear and left at its end, a row of cycles changes the latch, MODE, the transcript and
the panel's record, and no other field. -/
theorem leaveOp_doCycles_startedAt {s : State} (h : Idle s) (herr : s.err = false) (i : Instr) (f : Family) (k : Nat)
    (cs : List (PanelCommand × List Byte)) : leaveOp (doCycles cs (startedAt i f k s)) = { s with
      latched := s.args, mode := f, trace := s.trace ++ cs.flatMap (fun c => burstEvents c.1 c.2)
      panel := s.panel.afterCycles cs } := by
  obtain ⟨hop, hstep, hinfl, hcyc, htimer, htaint, hcs, hdc, -⟩ := h
  simp [leaveOp, doCycles, startedAt, startOp, hop, hstep, hinfl, hcyc, htimer, htaint, hcs, hdc, herr]

/-- So does a row with `Trigger()` after it. -/
theorem leaveOp_doTrigger_startedAt {s : State} (h : Idle s) (herr : s.err = false) (i : Instr) (f : Family) (k n : Nat)
    (cs : List (PanelCommand × List Byte)) : leaveOp (doTrigger n (doCycles cs (startedAt i f k s))) = { s with
      latched := s.args, mode := f
      trace := s.trace ++ cs.flatMap (fun c => burstEvents c.1 c.2) ++ triggerEvents n
      panel := (s.panel.afterCycles cs).afterCycle .displayRefresh [] } := by
  obtain ⟨hop, hstep, hinfl, hcyc, htimer, htaint, hcs, hdc, -⟩ := h
  simp [leaveOp, doTrigger, doWait, doDelay, doCycles, startedAt, startOp, triggerEvents, PanelRecord.afterCycles, hop, hstep,
    hinfl, hcyc, htimer, htaint, hcs, hdc, herr]

/-- An operation whose list goes on with a row of cycles and its end runs to a state that differs from the one before its
acceptance in the latch, MODE, the transcript and the panel's record alone. -/
theorem On.runsCycles {op : Instr} {l : List SeqStep} {f : Family} {k : Nat} {s : State} (hidle : Idle s)
    (herr : s.err = false) (h : On op l k (startedAt op f k s)) {cs : List (PanelCommand × Payload × List Byte)}
    (hy : ∀ c ∈ cs, Yields (startedAt op f k s) c.2.1 c.2.2)
    (hl : l.drop k = cs.map (fun c => .cycle (.ofCycle c.1 c.2.1)) ++ [.finish]) :
    ∃ r, LeadsTo (startedAt op f k s) { s with
      latched := s.args, mode := f, trace := s.trace ++ cs.flatMap (fun c => burstEvents c.1 c.2.2), panel := r } := by
  have run := h.cyclesFinish hy hl
  rw [leaveOp_doCycles_startedAt hidle herr, List.flatMap_map] at run
  exact ⟨_, run⟩

/-- The same of a list that goes on with a row of cycles, `Trigger()` and the end. -/
theorem On.runsCyclesTrigger {op : Instr} {l : List SeqStep} {f : Family} {k : Nat} {s : State} (hidle : Idle s)
    (herr : s.err = false) (h : On op l k (startedAt op f k s)) {cs : List (PanelCommand × Payload × List Byte)}
    (hy : ∀ c ∈ cs, Yields (startedAt op f k s) c.2.1 c.2.2)
    (hl : l.drop k = cs.map (fun c => .cycle (.ofCycle c.1 c.2.1)) ++ (triggerSteps .pin ++ [.finish])) (n : Nat) :
    ∃ r, LeadsTo (startedAt op f k s) { s with
      latched := s.args, mode := f
      trace := s.trace ++ cs.flatMap (fun c => burstEvents c.1 c.2.2) ++ triggerEvents n, panel := r } := by
  have run := h.cyclesTrigger hy hl n
  rw [leaveOp_doTrigger_startedAt hidle herr, List.flatMap_map] at run
  exact ⟨_, run⟩

/-! ### The checks before the first event -/

/-- With a whole buffer the check passes and MODE is Full (R178, R179). -/
theorem enterFullStep_passes {s : State} (op : Instr) (hlen : s.args.bufLen.toNat = Config.len) :
    enterFullStep (startOp op s) = startedAt op .full 1 s :=
  if_neg (not_not.2 hlen)

/-- Where the operands and MODE are as R182 asks, the checks pass and MODE is Quick. -/
theorem enterPartialStep_passes {s : State} (op : Instr) (hm : s.mode = .full)
    (hl : s.args.bufLen.toNat = s.args.w.toNat * s.args.h.toNat / 8) (hx : s.args.x.toNat % 8 = 0)
    (hw : s.args.w.toNat % 8 = 0) (hf : WindowFits s.args.x.toNat s.args.y.toNat s.args.w.toNat s.args.h.toNat) :
    enterPartialStep (startOp op s) = startedAt op .quick 1 s := by
  rw [enterPartialStep_eq]
  exact (if_neg (not_not.2 hl)).trans <| (if_neg (not_not.2 hx)).trans <| (if_neg (not_not.2 hw)).trans <|
    (if_neg (not_not.2 hm)).trans (if_neg (not_not.2 hf))

/-- The check's step leads to step 1 of the list with MODE written (R179, R182). -/
theorem On.writesMode {op : Instr} {l : List SeqStep} {st : SeqStep} {f : Family} {s : State}
    (h : On op l 0 (startOp op s)) (hk : l[0]? = some st) (hd : op ≠ .displayFrame)
    (hr : runSeqStep st quietDraw (startOp op s) = .next (startedAt op f 1 s)) :
    LeadsTo (startOp op s) (startedAt op f 1 s) ∧ On op l 1 (startedAt op f 1 s) :=
  h.enter (f := f) hk hd hr

/-! ### The rows of plane cycles -/

/-- The plane cycles of a full-frame update (R180, R181), with their bytes. -/
def fullPlanesRow (bg : Color) (a : Args) (bs : List Byte) : List (PanelCommand × Payload × List Byte) :=
  [(.dataStartTransmission1, .fill (Config.bgByte bg) Config.len, List.replicate Config.len (Config.bgByte bg)),
   (.dataStartTransmission2, bufPayload a, bs)]

/-- The cycles of a partial update (R186, R187), with their bytes. -/
def partialRow (a : Args) (ds bs : List Byte) : List (PanelCommand × Payload × List Byte) :=
  [(.partialIn, .bytes [], []), (.partialWindow, windowPayload a, ds),
   (.dataStartTransmission1, bufComplPayload a, bs.map fun b => ~~~b), (.dataStartTransmission2, bufPayload a, bs)]

/-- The plane cycles of CLEAR_FRAME (R195), with their bytes. -/
def clearPlanesRow (bg : Color) : List (PanelCommand × Payload × List Byte) :=
  [(.dataStartTransmission1, .fill (Config.bgByte bg) Config.len, List.replicate Config.len (Config.bgByte bg)),
   (.dataStartTransmission2, .fill (~~~(Config.bgByte bg)) Config.len,
    List.replicate Config.len (~~~(Config.bgByte bg)))]

theorem fullPlanesRow_yields {s : State} {a : Args} {bs : List Byte} (hlen : bs.length = a.bufLen.toNat)
    (hbuf : HoldsBuffer s a.bufBase.toNat bs) (bg : Color) : ∀ c ∈ fullPlanesRow bg a bs, Yields s c.2.1 c.2.2 := by
  have hplane := hbuf.yields_buf
  simpa [fullPlanesRow, bufPayload, yields_fill, ← hlen] using hplane

theorem partialRow_yields {s : State} {a : Args} {ds bs : List Byte} (hlen : bs.length = a.bufLen.toNat)
    (hbuf : HoldsBuffer s a.bufBase.toNat bs) (hds : windowPayload a = .bytes ds) :
    ∀ c ∈ partialRow a ds bs, Yields s c.2.1 c.2.2 := by
  have hplanes := And.intro hbuf.yields_bufCompl hbuf.yields_buf
  simpa [partialRow, bufPayload, bufComplPayload, yields_bytes, hds, ← hlen] using hplanes

theorem clearPlanesRow_yields (bg : Color) (s : State) : ∀ c ∈ clearPlanesRow bg, Yields s c.2.1 c.2.2 := by
  simp [clearPlanesRow, yields_fill]

theorem fullPlanesRow_events (bg : Color) (a : Args) (bs : List Byte) :
    (fullPlanesRow bg a bs).flatMap (fun c => burstEvents c.1 c.2.2) =
      burstEvents .dataStartTransmission1 (List.replicate 2756 (Config.bgByte bg)) ++
        burstEvents .dataStartTransmission2 bs := by
  rw [fullPlanesRow, len_eq, List.flatMap_cons, List.flatMap_singleton]

theorem clearPlanesRow_events (bg : Color) : (clearPlanesRow bg).flatMap (fun c => burstEvents c.1 c.2.2) =
    burstEvents .dataStartTransmission1 (List.replicate 2756 (Config.bgByte bg)) ++
      burstEvents .dataStartTransmission2 (List.replicate 2756 (~~~(Config.bgByte bg))) := by
  rw [clearPlanesRow, len_eq, List.flatMap_cons, List.flatMap_singleton]

/-- The events of `LoadLuts`' row (R162). -/
theorem lutRow_events (f : Family) : (lutRow f).flatMap (fun c => burstEvents c.1 c.2.2) = lutEvents f := by
  rw [lutEvents, ← lutRow_bytes, List.flatMap_map]

/-! ### The operations run to their ends -/

/-- Settles O37: the check passes, then the two planes and the end. -/
theorem updateFrameRuns : Obligations.UpdateFrameRuns := by
  intro s bs hinv hacc ⟨hburst, _⟩ hready hbl hbs hbuf
  have hidle := hinv.idle_fields hacc
  have hlen : bs.length = s.args.bufLen.toNat := by rw [hbs, hbl]; rfl
  have hpass := enterFullStep_passes .updateFrame (hlen.symm.trans (hbs.trans len_eq.symm))
  obtain ⟨enter, onPlanes⟩ := (On.start (op := .updateFrame) hidle hburst rfl).writesMode rfl nofun (congrArg _ hpass)
  obtain ⟨r, planes⟩ := onPlanes.runsCycles hidle (hinv.err_of_ready hready)
    (fullPlanesRow_yields hlen (hbuf.congr rfl rfl rfl rfl) s.bg) rfl
  refine ⟨exec_accepts rfl hacc rfl fun _ => hready, r, enter.trans ?_⟩
  simpa only [fullPlanesRow_events, List.append_assoc] using planes

/-- Settles O38: the checks pass, then the partial prologue, the two planes and the end. -/
theorem updatePartialFrameRuns : Obligations.UpdatePartialFrameRuns := by
  intro s bs ds hinv hacc ⟨hburst, _⟩ hready hm hl hx hw hf hds hlen hbuf
  have hidle := hinv.idle_fields hacc
  have hpass := enterPartialStep_passes .updatePartialFrame hm hl hx hw hf
  obtain ⟨enter, onRow⟩ := (On.start (op := .updatePartialFrame) hidle hburst rfl).writesMode rfl nofun (congrArg _ hpass)
  obtain ⟨r, row⟩ := onRow.runsCycles hidle (hinv.err_of_ready hready)
    (partialRow_yields hlen (hbuf.congr rfl rfl rfl rfl) hds) rfl
  refine ⟨exec_accepts rfl hacc rfl fun _ => hready, r, enter.trans ?_⟩
  simpa [partialRow] using row

/-- Settles O39: the LUT load of MODE's family, `Trigger()` and the end. -/
theorem displayFrameRuns : Obligations.DisplayFrameRuns := by
  intro s n hinv hacc ⟨hburst, hpin⟩ hready
  have hidle := hinv.idle_fields hacc
  have on : On .displayFrame (displayFrameSteps .pin s.mode) 0 (startedAt .displayFrame s.mode 0 s) :=
    On.start (s := s) hidle hburst (hpin ▸ rfl)
  obtain ⟨r, run⟩ := on.runsCyclesTrigger hidle (hinv.err_of_ready hready) (lutRow_yields s.mode _)
    (by rw [lutRow_steps, ← List.append_assoc]; rfl) n
  rw [lutRow_events] at run
  exact ⟨exec_accepts rfl hacc rfl fun _ => hready, r, run⟩

/-- Settles O40: the check passes, then the two planes and the Full LUTs in one row of cycles, `Trigger()` and the end. -/
theorem updateAndDisplayFrameRuns : Obligations.UpdateAndDisplayFrameRuns := by
  intro s bs n hinv hacc ⟨hburst, hpin⟩ hready hbl hbs hbuf
  have hidle := hinv.idle_fields hacc
  have hlen : bs.length = s.args.bufLen.toNat := by rw [hbs, hbl]; rfl
  have hpass := enterFullStep_passes .updateAndDisplayFrame (hlen.symm.trans (hbs.trans len_eq.symm))
  have hlist : stepList .updateAndDisplayFrame (startOp .updateAndDisplayFrame s) =
    updateAndDisplayFrameSteps .pin s.bg s.args := by rw [← hpin]; rfl
  obtain ⟨enter, onPlanes⟩ := (On.start hidle hburst hlist).writesMode rfl nofun (congrArg _ hpass)
  obtain ⟨r, run⟩ := onPlanes.runsCyclesTrigger hidle (hinv.err_of_ready hready)
    (List.forall_mem_append.2 ⟨fullPlanesRow_yields hlen (hbuf.congr rfl rfl rfl rfl) s.bg, lutRow_yields .full _⟩) rfl n
  refine ⟨exec_accepts rfl hacc rfl fun _ => hready, r, enter.trans ?_⟩
  simpa only [List.flatMap_append, fullPlanesRow_events, lutRow_events, List.append_assoc] using run

/-- Settles O41: the two planes and the Full LUTs in one row of cycles, `Trigger()` and the end; MODE is not in the list. -/
theorem clearFrameRuns : Obligations.ClearFrameRuns := by
  intro s n hinv hacc ⟨hburst, hpin⟩ hready
  have hidle := hinv.idle_fields hacc
  have on : On .clearFrame (clearFrameSteps .pin s.bg) 0 (startedAt .clearFrame s.mode 0 s) :=
    On.start (s := s) hidle hburst (hpin ▸ rfl)
  obtain ⟨r, run⟩ := on.runsCyclesTrigger hidle (hinv.err_of_ready hready)
    (List.forall_mem_append.2 ⟨clearPlanesRow_yields s.bg _, lutRow_yields .full _⟩) rfl n
  refine ⟨exec_accepts rfl hacc rfl fun _ => hready, r, ?_⟩
  rw [startOp_eq_startedAt]
  simpa only [List.flatMap_append, clearPlanesRow_events, lutRow_events, List.append_assoc] using run

/-- Settles O44: SLEEP's list is its end (R199). -/
theorem sleepRuns : Obligations.SleepRuns := by
  intro s d hinv hacc
  have hidle := hinv.idle_fields hacc
  refine ⟨exec_accepts rfl hacc rfl nofun, ?_⟩
  rw [sequencerMove_fetch (s := startOp .sleep s) (st := .finish) d rfl hidle.timer hidle.cyc rfl]
  obtain ⟨hop, hstep, hinfl, hcyc, htimer, htaint, -⟩ := hidle
  simp [runSeqStep, leaveOp, startOp, hop, hstep, hinfl, hcyc, htimer, htaint]

/-! ### Where a command stands in the lists -/

/-- Whether a step of a list is not the cycle of the command. -/
def SeqStep.sendsNo (c : PanelCommand) : SeqStep → Bool
  | .cycle i => i.cycle?.all fun cp => decide (cp.1 ≠ c)
  | _ => true

/-- The command's own cycle sends it, whatever the payload. -/
theorem SeqStep.sendsNo_ofCycle (c : PanelCommand) (p : Payload) : SeqStep.sendsNo c (.cycle (.ofCycle c p)) = false := by
  simp [SeqStep.sendsNo]

/-- Where no step is the command's cycle, none stands anywhere. -/
theorem not_sent {c : PanelCommand} {l : List SeqStep} (h : l.all (SeqStep.sendsNo c) = true) {k : Nat} {p : Payload} :
    l[k]? ≠ some (.cycle (.ofCycle c p)) := fun hk => by
  have hno := List.all_eq_true.1 h _ (List.mem_of_getElem? hk)
  simp [SeqStep.sendsNo_ofCycle] at hno

theorem ofCycle_payload_inj {c : PanelCommand} {p q : Payload} (h : Instr.ofCycle c p = .ofCycle c q) : p = q := by
  simpa using congrArg Instr.cycle? h

/-- A list with one cycle of the command, at a known place: any of the command's cycles is that one. -/
theorem sent_once {c : PanelCommand} {pre post : List SeqStep} {p q : Payload} {k : Nat}
    (hpre : pre.all (SeqStep.sendsNo c) = true) (hpost : post.all (SeqStep.sendsNo c) = true)
    (hk : (pre ++ .cycle (.ofCycle c p) :: post)[k]? = some (.cycle (.ofCycle c q))) :
    k = pre.length ∧ q = p := by
  rcases lt_trichotomy k pre.length with hlt | rfl | hgt
  · rw [List.getElem?_append_left hlt] at hk
    exact absurd hk (not_sent hpre)
  · rw [List.getElem?_append_right le_rfl, Nat.sub_self, List.getElem?_cons_zero] at hk
    exact ⟨rfl, (ofCycle_payload_inj (SeqStep.cycle.inj (Option.some.inj hk))).symm⟩
  · obtain ⟨j, rfl⟩ := Nat.exists_eq_add_of_lt hgt
    rw [Nat.add_assoc, List.getElem?_append_right (by omega), Nat.add_sub_cancel_left, List.getElem?_cons_succ] at hk
    exact absurd hk (not_sent hpost)

theorem waitIdleSteps_sendsNo {c : PanelCommand} (hc : c ≠ .getStatus) (src : BusySource) :
    (waitIdleSteps src).all (SeqStep.sendsNo c) = true := by
  cases src <;> simp [waitIdleSteps, SeqStep.sendsNo, Instr.cycle?, hc.symm]

/-- `LoadLuts` triggers no refresh and powers nothing on (R162). -/
theorem loadLuts_sendsNo {c : PanelCommand} (hc : c ∈ [.displayRefresh, .powerOn]) (sel : Option Family) :
    (loadLuts sel).all (SeqStep.sendsNo c) = true := by
  unfold loadLuts
  rcases List.mem_pair.1 hc with rfl | rfl <;> cases fam sel <;> rfl

/-- Every operation's list ends with a whole LUT load of its family and `Trigger()`, or triggers no refresh (R190, R197). -/
theorem stepList_refresh {op : Instr} (s : State) (h : isHostOp op = true) :
    (op ∈ [.displayFrame, .updateAndDisplayFrame, .clearFrame] ∧
      ∃ before f, before.all (SeqStep.sendsNo .displayRefresh) = true ∧
        (op = .displayFrame → f = s.mode) ∧ (op ≠ .displayFrame → f = .full) ∧
        stepList op s = before ++ loadLuts (some f) ++ triggerSteps s.cfg.busySource ++ [.finish]) ∨
    (stepList op s).all (SeqStep.sendsNo .displayRefresh) = true := by
  have hwait := waitIdleSteps_sendsNo (c := .displayRefresh) (by decide) s.cfg.busySource
  have hluts := loadLuts_sendsNo (c := .displayRefresh) (by decide)
  cases op with
  | displayFrame => exact .inl ⟨by simp, [], s.mode, rfl, fun _ => rfl, (absurd rfl ·), rfl⟩
  | updateAndDisplayFrame | clearFrame =>
    exact .inl ⟨by simp, _, .full, rfl, nofun, fun _ => rfl, rfl⟩
  | init | wakeUp => exact .inr (by simp [stepList, wakeUpSteps, initSteps, hwait, SeqStep.sendsNo, Instr.cycle?])
  | waitUntilIdle => exact .inr (by simp [stepList, waitUntilIdleSteps, hwait, SeqStep.sendsNo])
  | setLut sel => cases sel <;> exact .inr (by simp [stepList, setLutSteps, hluts, SeqStep.sendsNo])
  | sleep | updateFrame | updatePartialFrame | setBackground _ | getBackground | getWidth | getHeight => exact .inr rfl
  | _ => cases h

/-- INIT powers the panel on once, and waits at once (R150). -/
theorem initSteps_powerOn (src : BusySource) : ∃ pre rest,
    initSteps src = pre ++ .cycle (.powerOn (.bytes [])) :: (waitIdleSteps src ++ rest) ∧
    pre.all (SeqStep.sendsNo .powerOn) = true ∧ (waitIdleSteps src ++ rest).all (SeqStep.sendsNo .powerOn) = true := by
  refine ⟨(initSteps src).take 6, (initSteps src).drop (7 + (waitIdleSteps src).length), ?_⟩
  cases src <;> exact ⟨rfl, rfl, rfl⟩

/-- Only INIT's list, which is WAKE_UP's too, powers the panel on (R150, R217). -/
theorem stepList_powerOn {op : Instr} (s : State) (h : isHostOp op = true) :
    (op ∈ [.init, .wakeUp] ∧ stepList op s = initSteps s.cfg.busySource) ∨
    (stepList op s).all (SeqStep.sendsNo .powerOn) = true := by
  have hwait := waitIdleSteps_sendsNo (c := .powerOn) (by decide) s.cfg.busySource
  have hluts := loadLuts_sendsNo (c := .powerOn) (by decide)
  cases op with
  | init | wakeUp => exact .inl ⟨by simp, rfl⟩
  | displayFrame | updateAndDisplayFrame | clearFrame =>
    exact .inr (by simp [stepList, displayFrameSteps, updateAndDisplayFrameSteps, clearFrameSteps, fullPlanes, triggerSteps,
      hwait, hluts, SeqStep.sendsNo, Instr.cycle?])
  | waitUntilIdle => exact .inr (by simp [stepList, waitUntilIdleSteps, hwait, SeqStep.sendsNo])
  | setLut sel => cases sel <;> exact .inr (by simp [stepList, setLutSteps, hluts, SeqStep.sendsNo])
  | sleep | updateFrame | updatePartialFrame | setBackground _ | getBackground | getWidth | getHeight => exact .inr rfl
  | _ => cases h

/-- Settles O56: a list has one DisplayRefresh, between the LUT load and the rest of `Trigger()`, or none; and one PowerOn,
before INIT's first wait, or none. -/
theorem refreshSites : Obligations.RefreshSites := by
  refine ⟨fun op s k p hop hk => ?refresh, by decide, fun op s k p hop hk => ?powerOn⟩
  case refresh =>
    rcases stepList_refresh s hop with ⟨htrig, before, f, hbefore, hmode, hfull, hl⟩ | hnone
    · have hsplit : stepList op s = before ++ loadLuts (some f) ++ .cycle (.ofCycle .displayRefresh (.bytes [])) ::
          (.delay Config.tSettle :: waitIdleSteps s.cfg.busySource ++ [.finish]) := by
        simp [hl, triggerSteps, Instr.ofCycle]
      rw [hsplit] at hk ⊢
      obtain ⟨rfl, rfl⟩ := sent_once (c := .displayRefresh) (q := p) (by simp [hbefore, loadLuts_sendsNo])
        (by simp [waitIdleSteps_sendsNo, SeqStep.sendsNo]) hk
      exact ⟨rfl, htrig, before, f, List.take_left, hmode, hfull, by simp [← List.drop_drop]⟩
    · exact absurd hk (not_sent hnone)
  case powerOn =>
    rcases stepList_powerOn s hop with ⟨hinit, hl⟩ | hnone
    · obtain ⟨pre, rest, hsplit, hpre, hpost⟩ := initSteps_powerOn s.cfg.busySource
      rw [hl, hsplit] at hk ⊢
      obtain ⟨rfl, rfl⟩ := sent_once (c := .powerOn) (p := .bytes []) (q := p) hpre hpost hk
      exact ⟨rfl, hinit, rest, by simp [← List.drop_drop]⟩
    · exact absurd hk (not_sent hnone)

/-! ### Partial mode and VCOM-DC -/

/-- A command byte leaves the record in partial mode: no command takes it out (R188). -/
theorem PanelRecord.command_partialMode {r : PanelRecord} (h : r.partialMode = true) (c : PanelCommand) :
    (r.command c).partialMode = true := by
  cases c with
  | partialIn => rfl
  | _ => exact h

@[simp] theorem PanelRecord.data_partialMode (b : Byte) (r : PanelRecord) : (r.data b).partialMode = r.partialMode := by
  unfold PanelRecord.data
  split <;> rfl

theorem PanelRecord.afterEvents_partialMode {r : PanelRecord} (h : r.partialMode = true) (es : List Event) :
    (r.afterEvents es).partialMode = true := by
  induction es generalizing r with
  | nil => exact h
  | cons e es ih =>
    refine ih ?_
    cases e with
    | cmd b =>
      cases hc : commandOf b with
      | none => simpa [hc] using h
      | some c => simpa [hc] using PanelRecord.command_partialMode h c
    | data b => simpa using h
    | cs _ | dc _ | rst _ | delay _ | sample _ | statusRead _ => exact h

theorem fam_some (f : Family) : fam (some f) = f := by cases f <;> rfl

/-- A LUT load sends a VCOM-DC setting in the Quick family alone, with its override (R163, R168). -/
theorem vcmDc_mem_loadLuts {sel : Option Family} {p : Payload} :
    .cycle (.vcmDcSetting p) ∈ loadLuts sel ↔ fam sel = .quick ∧ p = .bytes [Config.quickVdcOverride] := by
  unfold loadLuts
  cases fam sel <;> simp [lutCycles]

theorem vcmDc_notMem_waitIdleSteps (src : BusySource) (p : Payload) : .cycle (.vcmDcSetting p) ∉ waitIdleSteps src := by
  cases src <;> simp [waitIdleSteps]

/-- Settles O57: every move follows the bus, whose events keep partial mode, or is a reset, which keeps the record; and the
VCOM-DC settings of each list are INIT's and its LUT load's. -/
theorem partialModeStays : Obligations.PartialModeStays := by
  refine ⟨fun m s t h hs => ?moves, fun op s k p hop hk => ?sites⟩
  case moves =>
    by_cases hm : m = .blkRst
    · subst hm
      cases h
      exact hs
    · obtain ⟨es, _, hpanel⟩ := applyMove_followsBus hm h
      exact hpanel ▸ PanelRecord.afterEvents_partialMode hs es
  case sites =>
    have hmem := List.mem_of_getElem? hk
    have hwait := vcmDc_notMem_waitIdleSteps s.cfg.busySource p
    cases op with
    | init | wakeUp =>
      exact .inl ⟨by simp, by simpa [stepList, wakeUpSteps, initSteps, hwait] using hmem⟩
    | displayFrame =>
      obtain ⟨hmode, hp⟩ : s.mode = .quick ∧ p = .bytes [Config.quickVdcOverride] := by
        simpa [stepList, displayFrameSteps, triggerSteps, vcmDc_mem_loadLuts, fam_some, hwait] using hmem
      exact .inr ⟨.inr ⟨rfl, hmode⟩, hp⟩
    | setLut sel =>
      cases sel with
      | quick => exact .inr ⟨.inl rfl, by
        simpa [stepList, setLutSteps, vcmDc_mem_loadLuts, fam, Config.quickVdcOverride] using hmem⟩
      | noOverride | full | reserved => simp [stepList, setLutSteps, vcmDc_mem_loadLuts, fam] at hmem
    | updateAndDisplayFrame | clearFrame =>
      simp [stepList, updateAndDisplayFrameSteps, clearFrameSteps, fullPlanes, triggerSteps, vcmDc_mem_loadLuts, fam,
        hwait] at hmem
    | sleep | updateFrame | updatePartialFrame | waitUntilIdle | setBackground _ | getBackground | getWidth | getHeight =>
      simp [stepList, sleepSteps, updateFrameSteps, fullPlanes, updatePartialFrameSteps, waitUntilIdleSteps, hwait] at hmem
    | _ => cases hop

end Sys2Proof.Machine

/-! The proofs for the statements of 45_accessors.md: the accessors complete in the one step of their lists (R205 to R208),
and WAIT_UNTIL_IDLE's list is a wait by the pin and its end (R209). -/

namespace Sys2Proof.Machine

/-- Left at once, an operation accepted by an idle block has changed the latch and ERR alone. -/
theorem leaveOp_startOp {s : State} (h : Idle s) (i : Instr) :
    leaveOp (startOp i s) = { s with latched := s.args, err := false } := by
  obtain ⟨hop, hstep, hinfl, hcyc, htimer, htaint, -⟩ := h
  simp [leaveOp, startOp, hop, hstep, hinfl, hcyc, htimer, htaint]

/-- The first move of an accepted operation is the first step of its list, whatever the environment answers. -/
theorem sequencerMove_startOp {s : State} (h : Idle s) {i : Instr} {st : SeqStep}
    (hlist : (stepList i (startOp i s))[0]? = some st) (d : Draw) :
    sequencerMove d (startOp i s) = runSeqStep st d (startOp i s) :=
  sequencerMove_fetch d rfl h.timer h.cyc hlist

section
variable {s : State} (h : Idle s) (d : Draw)
include h

/-- SET_BACKGROUND's one step writes BG with its operand (R205). -/
theorem sequencerMove_setBackground (c : Color) : sequencerMove d (startOp (.setBackground c) s) =
    .next { s with latched := s.args, err := false, bg := c } := by
  rw [sequencerMove_startOp h (st := .setBackground c) rfl, runSeqStep, setBackgroundStep, leaveOp_startOp h]

/-- GET_BACKGROUND's one step writes RESULT with BG's code (R206). -/
theorem sequencerMove_getBackground : sequencerMove d (startOp .getBackground s) = .next { s with
    latched := s.args, err := false, result := Word.ofBit (encodeColor s.bg == 1) } := by
  rw [sequencerMove_startOp h (st := .getBackground) rfl, runSeqStep, getBackgroundStep, leaveOp_startOp h, startOp_bg]

/-- GET_WIDTH's one step writes RESULT with the panel's width (R207). -/
theorem sequencerMove_getWidth : sequencerMove d (startOp .getWidth s) = .next { s with
    latched := s.args, err := false, result := BitVec.ofNat 32 Config.width } := by
  rw [sequencerMove_startOp h (st := .getWidth) rfl, runSeqStep, getWidthStep, leaveOp_startOp h]

/-- GET_HEIGHT's one step writes RESULT with the panel's height (R208). -/
theorem sequencerMove_getHeight : sequencerMove d (startOp .getHeight s) = .next { s with
    latched := s.args, err := false, result := BitVec.ofNat 32 Config.height } := by
  rw [sequencerMove_startOp h (st := .getHeight) rfl, runSeqStep, getHeightStep, leaveOp_startOp h]

end

/-- Settles O45: both are accepted in every LIFECYCLE state, and each list is its one step; BG's code is
taken for either colour. -/
theorem backgroundRuns : Obligations.BackgroundRuns := by
  intro s d hinv hacc
  have hidle := hinv.idle_fields hacc
  refine ⟨fun c => ⟨exec_accepts rfl hacc rfl nofun, sequencerMove_setBackground hidle d c⟩,
    exec_accepts rfl hacc rfl nofun, (sequencerMove_getBackground hidle d).trans ?_⟩
  cases s.bg <;> rfl

/-- Settles O46: both are accepted in every LIFECYCLE state, and each list is its one step; the panel is 104 by 212. -/
theorem geometryRuns : Obligations.GeometryRuns := by
  intro s d hinv hacc
  have hidle := hinv.idle_fields hacc
  exact ⟨⟨exec_accepts rfl hacc rfl nofun, sequencerMove_getWidth hidle d⟩,
    exec_accepts rfl hacc rfl nofun, sequencerMove_getHeight hidle d⟩

/-- Begun on an idle block and left at its end, a wait by the pin changes the latch, ERR and the transcript, and no other
field. -/
theorem leaveOp_doWait_startOp {s : State} (h : Idle s) (i : Instr) (n : Nat) : leaveOp (doWait n (startOp i s)) = { s with
    latched := s.args, err := false, trace := s.trace ++ waitEvents n } := by
  change { leaveOp (startOp i s) with trace := s.trace ++ waitEvents n } = _
  rw [leaveOp_startOp h]

/-- Settles O43: it is accepted in every LIFECYCLE state, and its list is the wait of R131 and its end. -/
theorem waitUntilIdleRuns : Obligations.WaitUntilIdleRuns := by
  intro s n hinv hacc ⟨hburst, hpin⟩
  have hidle := hinv.idle_fields hacc
  have on : On .waitUntilIdle (waitUntilIdleSteps .pin) 0 (startOp .waitUntilIdle s) :=
    On.start hidle hburst (hpin ▸ rfl)
  obtain ⟨wait, onEnd⟩ := on.wait n rfl rfl
  refine ⟨exec_accepts rfl hacc rfl nofun, ?_⟩
  rw [← leaveOp_doWait_startOp hidle .waitUntilIdle n]
  exact wait.trans (onEnd.last rfl rfl)

end Sys2Proof.Machine

namespace Sys2Proof

/-- Settles O5: `CODE` is an admissible map whatever the free bytes are, so that it is injective and has the two
fixed bytes. -/
theorem codeConstraints : Obligations.CodeConstraints := by
  obtain ⟨powerSetting, forceTemperature, -⟩ := Config.code_admissible
  exact ⟨fun _ _ => Config.code_injective, powerSetting, forceTemperature⟩

end Sys2Proof

/-! The proofs for the statements of 60_exceptions.md: which moves raise a fault and what it leaves (R243), each fault by its
check (R244 to R252), and the halted block (R253). -/

namespace Sys2Proof.Machine

/-! ### How a move sets FAULT -/

/-- The codes of the checks made of an operation's operands and of MODE at its first step (R246, R247, R249, R251, R252). -/
def firstStepCodes : List (BitVec 4) :=
  [codeBufferLength, codePartialLength, codePartialAlignX, codePartialAlignW, codePartialModeNotFull, codeWindowRange]

/-- The three ways a move sets FAULT: a CTRL write with an operation in flight, a CTRL write that is not accepted, and an
operation's own check, before its first event (R98, R242, R248). -/
inductive Raises : Move → State → State → Prop where
  | reentrant {s : State} (rest : List HostLine) : Raises .host s (raiseReentrant { s with prog := rest })
  | acceptance {s : State} {code : BitVec 4} (rest : List HostLine) (hcode : code ∈ [codeIllegalOp, codeNotReady]) :
      Raises .host s (raiseFault code { s with prog := rest })
  | firstStep {s : State} {code : BitVec 4} (d : Draw) (hcode : code ∈ firstStepCodes) (hk : s.seqStep = 0)
      (hc : s.cyc = none) : Raises (.sequencer d) s (raiseFault code s)

/-- A step of the open cycle leaves FAULT as it was, also where the transport fails (R250). -/
theorem cycleStep_fault (c : Cycle) (d : Draw) (s : State) : (cycleStep c d s).fault = s.fault := by
  rcases cycleStep_cases c d s with ⟨u, es, hu, _, e, _⟩ | ⟨e, u, hu, ⟨_, rfl | rfl⟩ | ⟨_, rfl⟩⟩
  · rw [hu, e]
  all_goals rw [hu, transportError_eq]
  · simp

/-- Of the steps of a list only the two checks set FAULT. -/
theorem runSeqStep_raises {op : Instr} {k : Nat} {st : SeqStep} {d : Draw} {s t : State}
    (hst : (stepList op s)[k]? = some st) (hrun : runSeqStep st d s = .next t) (hf : s.fault = false)
    (ht : t.fault = true) :
    (st = .enterFull ∨ st = .enterPartial) ∧ ∃ code ∈ firstStepCodes, t = raiseFault code s := by
  have unchanged (h : t.fault = s.fault) : False := by simp [h, hf] at ht
  cases st with
  | enterFull =>
    cases hrun
    refine ⟨.inl rfl, ?_⟩
    unfold enterFullStep at unchanged ⊢
    split_ifs at unchanged ⊢
    · exact ⟨codeBufferLength, by decide, rfl⟩
    · exact (unchanged rfl).elim
  | enterPartial =>
    cases hrun
    refine ⟨.inr rfl, ?_⟩
    unfold enterPartialStep at unchanged ⊢
    split_ifs at unchanged ⊢
    case neg => exact (unchanged rfl).elim
    all_goals exact ⟨_, by decide, rfl⟩
  | cycle i =>
    obtain ⟨⟨c, p⟩, hcp⟩ := Option.isSome_iff_exists.1 (stepList_site hst)
    obtain ⟨t', ht', e, _⟩ := beginCycle_spec c p s
    cases ((exec_cycle hcp s).trans ht').symm.trans hrun
    exact (unchanged (by rw [e])).elim
  | sample => cases hrun; exact (unchanged (by unfold sampleStep; split <;> rfl)).elim
  | statusRead => cases hrun; exact (unchanged (by unfold statusReadStep; split <;> rfl)).elim
  | _ => cases hrun; exact (unchanged rfl).elim

/-- Every move that sets FAULT does so in one of the three ways. -/
theorem applyMove_raises {m : Move} {s t : State} (h : applyMove m s = .next t) (hf : s.fault = false)
    (ht : t.fault = true) : Raises m s t := by
  have unchanged (e : t.fault = s.fault) : False := by simp [e, hf] at ht
  cases m with
  | host =>
    rcases hostMove_cases h with e | ⟨_, _, _, _, _, e⟩ | ⟨v, rest, _, e⟩
    · exact (unchanged (by rw [e])).elim
    · exact (unchanged (by rw [e])).elim
    · rw [e] at unchanged ⊢
      rcases accept_cases (decodeCtrl v) { s with prog := rest } with
        ⟨_, e⟩ | ⟨_, _, e⟩ | ⟨_, _, _, e⟩ | ⟨_, _, _, _, _, e⟩ | ⟨_, _, _, _, e⟩ <;> rw [e] at unchanged ⊢
      · exact (unchanged rfl).elim
      · exact .reentrant rest
      · exact .acceptance rest (by decide)
      · exact .acceptance rest (by decide)
      · exact (unchanged rfl).elim
  | sequencer d =>
    rcases sequencerMove_cases h with rfl | ⟨c, _, _, _, rfl⟩ | ⟨op, st, _, _, hc, _, hst, hrun⟩
    · exact (unchanged rfl).elim
    · exact (unchanged (cycleStep_fault c d s)).elim
    · obtain ⟨hcheck, code, hcode, rfl⟩ := runSeqStep_raises hst hrun hf ht
      exact .firstStep d hcode (stepList_enter_head hst hcheck) hc
  | timer => cases h; exact (unchanged rfl).elim
  | hostStore a b =>
    cases h
    obtain ⟨_, _, e, _⟩ := hostStore_spec a b s
    exact (unchanged (by rw [e])).elim
  | blkRst => cases h; cases ht

/-- The code of a fault of acceptance or of a first step is one of R241's nine. -/
theorem faultCode_range {code : BitVec 4} (h : code ∈ [codeIllegalOp, codeNotReady] ++ firstStepCodes) :
    1 ≤ code.toNat ∧ code.toNat ≤ 9 := by
  revert code
  decide

/-- Settles O16: in each of the three ways a fault is raised. -/
theorem faultEntry : Obligations.FaultEntry := by
  intro m s t h hf ht
  cases applyMove_raises h hf ht with
  | reentrant rest => simp [codeReentrant]
  | acceptance rest hcode =>
    simp [faultCode_range (List.mem_append_left _ hcode)]
  | firstStep d hcode hk hc =>
    simp [faultCode_range (List.mem_append_right _ hcode), hk, hc]

/-! ### The faults of acceptance -/

/-- A fault raised in an idle block changes FAULT and FAULT_CODE alone (R243). -/
theorem Idle.raiseFault {s : State} (h : Idle s) (code : BitVec 4) :
    raiseFault code s = { s with fault := true, faultCode := code } := by
  obtain ⟨hop, hstep, hinfl, hcyc, htimer, htaint, -⟩ := h
  simp [Machine.raiseFault, leaveOp, hop, hstep, hinfl, hcyc, htimer, htaint]

/-- The instructions that name no operation (R83, R88). -/
theorem illegalOp_iff_mem {i : Instr} : illegalOp i = true ↔ i ∈ [.reserved0, .reservedF, .setLut .reserved] := by
  refine ⟨fun h => ?_, fun h => ?_⟩
  · unfold illegalOp at h
    split at h
    case h_4 => cases h
    all_goals decide
  · revert i
    decide

/-- Settles O17: they fail R98's check of OP, and the words are those of `illegalOp_decodeCtrl`. -/
theorem illegalOpRaised : Obligations.IllegalOpRaised := by
  refine ⟨fun i s hi hinv hacc => ?_, fun v => ?_⟩
  · have hctrl : ∀ i ∈ [.reserved0, .reservedF, .setLut .reserved], Instr.cycle? i = none := by decide
    rw [exec_ctrl (hctrl i hi), accept_illegal hacc (illegalOp_iff_mem.2 hi), (hinv.idle_fields hacc).raiseFault]
    rfl
  · rw [← illegalOp_iff_mem, illegalOp_decodeCtrl]
    simp [or_assoc]

/-- Settles O18: they fail R98's check of LIFECYCLE, which no other operation has. -/
theorem notReadyRaised : Obligations.NotReadyRaised := by
  refine ⟨fun i s hi hinv hacc hnot => ?_, fun i s hi hacc => ?_⟩
  · have frameOps : ∀ i ∈ [.updateFrame, .updatePartialFrame, .displayFrame, .updateAndDisplayFrame, .clearFrame,
        .setLut .noOverride, .setLut .full, .setLut .quick],
        Instr.cycle? i = none ∧ illegalOp i = false ∧ needsReady i = true := by decide
    obtain ⟨hctrl, hlegal, hneeds⟩ := frameOps i hi
    rw [exec_ctrl hctrl, accept_notReady hacc hlegal hneeds hnot, (hinv.idle_fields hacc).raiseFault]
    rfl
  · have otherOps : ∀ i ∈ [.init, .wakeUp, .sleep, .setBackground .black, .setBackground .white, .getBackground,
        .getWidth, .getHeight, .waitUntilIdle],
        Instr.cycle? i = none ∧ illegalOp i = false ∧ needsReady i = false := by decide
    obtain ⟨hctrl, hlegal, hneeds⟩ := otherOps i hi
    exact exec_accepts hctrl hacc hlegal fun h => by simp [hneeds] at h

/-- Settles O19: with INFLIGHT cleared the sequencer stands still (R31). -/
theorem reentrantAbandons : Obligations.ReentrantAbandons := by
  intro v s hf hi
  refine ⟨raiseReentrant s, ?_, rfl, rfl, rfl, rfl, rfl, rfl, rfl, rfl, rfl, rfl, rfl, rfl,
    fun d => sequencerMove_still d (.inl rfl)⟩
  rw [exec_ctrl (decodeCtrl_cycle? v), accept_inflight hf hi]

/-! ### The halted block -/

/-- A CTRL write to a halted block changes nothing (R98, R253). -/
theorem exec_halted {s : State} (hf : s.fault = true) (v : Word) : exec (decodeCtrl v) s = .next s := by
  rw [exec_ctrl (decodeCtrl_cycle? v), accept_halted hf]

/-- The host's move leaves FAULT, FAULT_CODE and INFLIGHT of a halted block as they were (R253). -/
theorem hostMove_halted {s t : State} (hf : s.fault = true) (h : hostMove s = .next t) :
    t.fault = true ∧ t.faultCode = s.faultCode ∧ t.inflight = s.inflight := by
  rcases hostMove_cases h with e | ⟨_, _, _, _, _, e⟩ | ⟨v, rest, _, e⟩
  · rw [e]; exact ⟨hf, rfl, rfl⟩
  · rw [e]; exact ⟨hf, rfl, rfl⟩
  · rw [e, accept_halted (s := { s with prog := rest }) hf]; exact ⟨hf, rfl, rfl⟩

/-- Settles O20: by the invariant no operation is in flight, so that the sequencer stands still, and acceptance ignores the
host. -/
theorem haltedBlock : Obligations.HaltedBlock := by
  intro s hinv hf
  have hi : s.inflight = false := hinv.halted hf
  have still (d : Draw) : sequencerMove d s = .next s := sequencerMove_still d (.inl hi)
  refine ⟨exec_halted hf, still, fun m t hm h => ?_, fun ⟨_, _⟩ rest ⟨hw, ha⟩ hp => ?_, fun t h => ?_⟩
  · cases m with
    | host =>
      obtain ⟨hft, hcode, hit⟩ := hostMove_halted hf h
      exact ⟨hft, hcode, hit.trans hi, hostMove_trace h⟩
    | sequencer d => cases (still d).symm.trans h; exact ⟨hf, rfl, hi, rfl⟩
    | timer => cases h; exact ⟨hf, rfl, hi, rfl⟩
    | hostStore a b =>
      cases h
      obtain ⟨_, _, e, _⟩ := hostStore_spec a b s
      rw [e]
      exact ⟨hf, rfl, hi, rfl⟩
    | blkRst => exact absurd rfl hm
  · cases hw
    exact hostMove_rd ha hp
  · cases h
    exact ⟨rfl, rfl⟩

/-! ### The faults of an operation's own checks -/

/-- A fault at the first step of an operation begun on an idle block without a recorded error changes the latch, FAULT and
FAULT_CODE alone (R243). -/
theorem Idle.raiseFault_startOp {s : State} (h : Idle s) (herr : s.err = false) (i : Instr) (code : BitVec 4) :
    Machine.raiseFault code (startOp i s) = { s with latched := s.args, fault := true, faultCode := code } := by
  rw [Machine.raiseFault, leaveOp_startOp h, ← herr]

/-- Settles O21: the check is the first step of both lists. -/
theorem bufferLengthRaised : Obligations.BufferLengthRaised := by
  intro i s d hi hinv hacc hready hlen
  have hidle := hinv.idle_fields hacc
  have updates : ∀ i ∈ [.updateFrame, .updateAndDisplayFrame], Instr.cycle? i = none ∧ illegalOp i = false := by decide
  obtain ⟨hctrl, hlegal⟩ := updates i hi
  refine ⟨exec_accepts hctrl hacc hlegal fun _ => hready, ?_⟩
  have hhead : (stepList i (startOp i s))[0]? = some .enterFull := by
    simp only [List.mem_cons, List.not_mem_nil, or_false] at hi
    rcases hi with rfl | rfl <;> rfl
  have hne : (startOp i s).latched.bufLen.toNat ≠ Config.len := fun h => hlen (BitVec.eq_of_toNat_eq (h.trans len_eq))
  rw [sequencerMove_startOp hidle hhead, runSeqStep, enterFullStep, if_pos hne,
    hidle.raiseFault_startOp (hinv.err_of_ready hready)]
  rfl

/-- Settles O22: the checks are the first step, over the operands latched at acceptance. -/
theorem partialChecks : Obligations.PartialChecks := by
  intro s d hinv hacc hready
  have hidle := hinv.idle_fields hacc
  have herr := hinv.err_of_ready hready
  refine ⟨exec_accepts rfl hacc rfl fun _ => hready, ?_⟩
  have passes : advance 1 { startOp .updatePartialFrame s with mode := .quick } = { s with
      latched := s.args, inflight := true, seqOp := some .updatePartialFrame, seqStep := 1, mode := .quick } := by
    rw [advance, startOp, ← herr]
  rw [sequencerMove_startOp hidle (st := .enterPartial) rfl, runSeqStep, enterPartialStep_eq, passes]
  simp only [hidle.raiseFault_startOp herr, startOp_latched, startOp_mode]
  rfl

end Sys2Proof.Machine

/-! The proof for the statement of 70_reset_and_hazards.md: block reset (R270). -/

namespace Sys2Proof

/-- Settles O14: block reset takes the block's fields from the reset state, whatever they were. -/
theorem blockReset : Obligations.BlockReset := by
  refine ⟨fun s => ⟨Machine.blockReset s, rfl, ?_⟩, rfl⟩
  simp [Machine.blockReset, Machine.State.reset, Machine.Args.zero, Config.bgDefault]

end Sys2Proof
